-- ==== Sys2Proof/Word.lean ====
section
/-! DEFINITION. The few fixed-width words of ACQ. Everything whose width is a parameter of the
configuration (times, counters, addresses, values) is a natural number with an explicit bound, as
00_scope.md R11 reads a value of width `W` (log 10). -/

namespace Sys2Proof

/-- One byte of a burst, a buffer, a marker or a response (00_scope.md R11). -/
abbrev Byte := BitVec 8

/-- The `ch` field of a command word, bits 7:0 (30_encoding.md R90). -/
abbrev ChField := BitVec 8

/-- An 8-bit polling error code (30_encoding.md R89). -/
abbrev Code := BitVec 8

end Sys2Proof
end

