-- ==== Sys2Proof/Config.lean ====
section
/-! DEFINITION. What an implementation of ACQ fixes: the parameters of 00_scope.md R7 to R9 as plain
data, the binary-mode framing constants of 30_encoding.md R101, the configuration `State.reset` holds
(log 2), and the values the spec leaves free, as opaque constants (log 9, log 11). -/

namespace Sys2Proof

/-- `FRAMING[c]` (10_state.md R49). `line` is a legal value of the register with no defined
behaviour (40_channel.md R119): a configuration that uses it is refused. -/
inductive Framing where
  | marker
  | line
deriving DecidableEq, Repr

/-- The read-only registers of one channel (00_scope.md R8, 10_state.md R49). `SML` and `EML` are
the lengths of `sm` and `em`. -/
structure ChannelCfg where
  cap : Nat
  framing : Framing
  sm : List Byte
  em : List Byte
  trailer : Nat
  throttle : Nat
deriving DecidableEq, Repr

/-- One register block `(start, count)`: the addresses `start .. start+count-1` (20_memory.md R75). -/
structure Block where
  start : Nat
  count : Nat
deriving DecidableEq, Repr

/-- The read-only registers of one slave (00_scope.md R9, 10_state.md R50, R51). `NBLK` is the length
of `blocks`. -/
structure SlaveCfg where
  addr : Nat
  interval : Nat
  blocks : List Block
deriving DecidableEq, Repr

/-- The global parameters: the widths of 00_scope.md R7 and the scheduler registers of 10_state.md R52.
`LEN_W` is not here: R7 fixes it at 16. -/
structure Params where
  timeW : Nat
  cntW : Nat
  busAddrW : Nat
  regAddrW : Nat
  valW : Nat
  idW : Nat
  tSettle : Nat
  tResponse : Nat
  minFrame : Nat
  mapCap : Nat
deriving DecidableEq, Repr

/-- A whole configuration (43_interfaces.md R168). `NCH` and `NSLAVE` are the lengths of the lists. -/
structure Config where
  params : Params
  channels : List ChannelCfg
  slaves : List SlaveCfg
deriving DecidableEq, Repr

/-! ### Binary-mode framing constants (30_encoding.md R101) -/

/-- `SM` in binary mode. -/
def Config.binaryStart : List Byte := [0x1B, 0x1B, 0x1B, 0x1B, 0x01, 0x01, 0x01, 0x01]

/-- `EM` in binary mode. -/
def Config.binaryEnd : List Byte := [0x1B, 0x1B, 0x1B, 0x1B, 0x1A]

/-- `TRAILER` in binary mode. -/
def Config.binaryTrailer : Nat := 8

/-- A marker-delimited channel with the binary-mode constants. -/
def Config.binaryChannel (cap throttle : Nat) : ChannelCfg where
  cap := cap
  framing := .marker
  sm := Config.binaryStart
  em := Config.binaryEnd
  trailer := Config.binaryTrailer
  throttle := throttle

/-- The parameters of the configuration `CFG-S` of 95_test_vectors.md, over the default widths of
00_scope.md R7. DESIGN CHOICE (log 2). -/
def Config.resetParams : Params where
  timeW := 32
  cntW := 32
  busAddrW := 8
  regAddrW := 16
  valW := 16
  idW := 16
  tSettle := 2
  tResponse := 100
  minFrame := 5
  mapCap := 8

/-- The configuration `State.reset` holds: one binary-mode channel as in program P1 of
95_test_vectors.md and the two slaves of its `CFG-S`. DESIGN CHOICE, unsafe for a claim about
`State.reset` alone (log 2). -/
def Config.atReset : Config where
  params := Config.resetParams
  channels := [Config.binaryChannel 64 0]
  slaves := [⟨0x11, 30000, [⟨0x0000, 2⟩, ⟨0x0010, 1⟩]⟩, ⟨0x12, 60000, [⟨0x0100, 1⟩]⟩]

/-! ### Values the spec leaves free

None has a body here, so nothing can be proved of the value itself. -/

/-- Whether the uninterpreted `BusDecode` (43_interfaces.md R166) accepts the response `rsp` to the request
for `count` registers from `start` of the slave at `addr` (log 11). -/
opaque Config.busAccepts (addr start count : Nat) (rsp : List Byte) : Bool

/-- The `i`-th value `BusDecode` finds in an accepted response, before it is cut to `VAL_W` bits (log 11). -/
opaque Config.busValue (addr start count : Nat) (rsp : List Byte) (i : Nat) : Nat

/-- What picks the nonzero error code of a response `BusDecode` does not accept (log 11). -/
opaque Config.busCode (addr start count : Nat) (rsp : List Byte) : Nat

/-- What `ch[c].resume` holds after the `k`-th reset: 70_reset_and_hazards.md R206 gives it no value (log 9). -/
opaque Config.unspecifiedResume (k c : Nat) : Nat

/-- What `ps.deadline` holds after the `k`-th reset (R206; log 9). -/
opaque Config.unspecifiedDeadline (k : Nat) : Nat

/-- What `sl[s].id_val` holds after the `k`-th reset (R206; log 9). -/
opaque Config.unspecifiedIdVal (k s : Nat) : Nat

end Sys2Proof
end

