-- ==== Sys2Proof/Syntax.lean ====
section
/-! DEFINITION. What is presented to ACQ: operands, operations, the rows of spec/opcode_table.json
(`Instr`, one constructor a row) and the inputs of the machine. -/

namespace Sys2Proof

/-- `id_rsp` (30_encoding.md R94): the Bus's answer to the identity query of this tick. `val` is
meaningful only when `valid`. -/
structure IdRsp where
  valid : Bool
  val : Nat
deriving DecidableEq, Repr

/-- `bus_rsp` (30_encoding.md R94): what `pollResponse()` returned. `bus_rsp.len` is the length of
`data`. -/
structure BusRsp where
  complete : Bool
  data : List Byte
  avail : BitVec 16
  err : Code
deriving DecidableEq, Repr

/-- An operation as its command word and operand fields give it (30_encoding.md R90 to R94), before
the dispatch key has chosen a row: level 1 of R95. `nop` keeps the ignored field `ch`; the reserved
opcodes keep the bits their table rows leave open. -/
inductive Op where
  | nop (ch : ChField)
  | push (ch : ChField) (data : List Byte)
  | eob (ch : ChField)
  | ctick (ch : ChField) (now : Nat)
  | stick (now : Nat) (id : IdRsp) (bus : BusRsp)
  | reserved0101 (low : BitVec 8)
  | reserved011x (low : BitVec 9)
  | reserved1xxx (low : BitVec 11)
deriving DecidableEq, Repr

/-- The rows of spec/opcode_table.json, in the table's order. A row of `PUSH`, `EOB`, `CTICK` or `STICK`
is an operation together with the state it finds its unit in (30_encoding.md R95). -/
inductive Instr where
  | nop (ch : ChField)
  | pushIdle (ch : ChField) (data : List Byte)
  | pushCollecting (ch : ChField) (data : List Byte)
  | pushValidating (ch : ChField) (data : List Byte)
  | pushDelivering (ch : ChField) (data : List Byte)
  | pushThrottled (ch : ChField) (data : List Byte)
  | eobCollecting (ch : ChField)
  | eobIdle (ch : ChField)
  | eobValidating (ch : ChField)
  | eobDelivering (ch : ChField)
  | eobThrottled (ch : ChField)
  | ctickIdle (ch : ChField) (now : Nat)
  | ctickCollecting (ch : ChField) (now : Nat)
  | ctickValidating (ch : ChField) (now : Nat)
  | ctickDelivering (ch : ChField) (now : Nat)
  | ctickThrottled (ch : ChField) (now : Nat)
  | stickIdleIdentity (now : Nat) (id : IdRsp) (bus : BusRsp)
  | stickIdleSelect (now : Nat) (id : IdRsp) (bus : BusRsp)
  | stickPrepareTransmit (now : Nat) (id : IdRsp) (bus : BusRsp)
  | stickTransmitting (now : Nat) (id : IdRsp) (bus : BusRsp)
  | stickAwaitingComplete (now : Nat) (id : IdRsp) (bus : BusRsp)
  | stickAwaitingTimeout (now : Nat) (id : IdRsp) (bus : BusRsp)
  | stickAwaitingWait (now : Nat) (id : IdRsp) (bus : BusRsp)
  | stickDecoding (now : Nat) (id : IdRsp) (bus : BusRsp)
  | stickAdvanceBlock (now : Nat) (id : IdRsp) (bus : BusRsp)
  | stickPublishing (now : Nat) (id : IdRsp) (bus : BusRsp)
  | reserved0101 (low : BitVec 8)
  | reserved011x (low : BitVec 9)
  | reserved1xxx (low : BitVec 11)
  | reset
  | loop (now : Nat) (id : IdRsp) (bus : BusRsp)
  | frame (ch : ChField) (payload suffix : List Byte)
deriving DecidableEq, Repr

/-- What the outside presents to ACQ (00_scope.md R6): the `rst` input (70_reset_and_hazards.md R205), a
stretch of command-word and operand bits holding one operation or several end to end (30_encoding.md
R90, R97), or a pseudo-operation written by name (R100 (b), (c)). -/
inductive Input where
  | rst
  | bits (bs : List Bool)
  | loop (now : Nat) (id : IdRsp) (bus : BusRsp)
  | frame (ch : ChField) (payload suffix : List Byte)
deriving DecidableEq, Repr

/-! ### The operand forms of the trace syntax (30_encoding.md R99) -/

/-- `id=none`, the default. -/
def IdRsp.none : IdRsp := ⟨false, 0⟩

/-- `id=<v>`. -/
def IdRsp.answered (v : Nat) : IdRsp := ⟨true, v⟩

/-- `rsp=pending(<avail>, <err>)`; the default is `pending 0 0`. -/
def BusRsp.pending (avail : BitVec 16) (err : Code) : BusRsp := ⟨false, [], avail, err⟩

/-- `rsp=complete(<bytes>)`: `avail` is the length, `err` is `0x00`. -/
def BusRsp.full (bytes : List Byte) : BusRsp := ⟨true, bytes, BitVec.ofNat 16 bytes.length, 0⟩

/-- A `stick` line whose operands are left out: `id=none`, `rsp=pending(0, 0x00)`. -/
def Op.stickAt (now : Nat) : Op := .stick now IdRsp.none (BusRsp.pending 0 0)

end Sys2Proof
end

