-- ==== Sys2Proof/Machine/State.lean ====
section
/-! DEFINITION. The whole state of ACQ as plain data (10_state.md), the output events (30_encoding.md
R98), the reasons a step can stop, and the state after reset (70_reset_and_hazards.md R205). -/

namespace Sys2Proof.Machine

open Sys2Proof

/-- `ch[c].state` (10_state.md R26). The reserved codes of 30_encoding.md R86 cannot be represented (R96 (d)). -/
inductive ChState where
  | idle
  | collecting
  | validating
  | delivering
  | throttled
deriving DecidableEq, Repr

/-- `ps.state` (10_state.md R31): the seven named states (90_conflicts.md C1). -/
inductive PsState where
  | idle
  | prepareTransmit
  | transmitting
  | awaitingResponse
  | decoding
  | advanceBlock
  | publishing
deriving DecidableEq, Repr

/-- The framing errors (60_exceptions.md R176). -/
inductive FramingErr where
  | frameTooShort
  | startMarkerMismatch
  | endMarkerMismatch
  | bufferOverflow
deriving DecidableEq, Repr

/-- The polling errors by name (30_encoding.md R89, 60_exceptions.md R177). Registers and events carry the
raw code; Machine/Codes.lean gives the two directions. -/
inductive PollErr where
  | noError
  | illegalFunction
  | illegalDataAddress
  | illegalDataValue
  | slaveDeviceFailure
  | noResponse
  | checksumError
  | notEnoughBytes
  | unknown (code : Code)
deriving DecidableEq, Repr

/-- The output events (30_encoding.md R98). Channel and slave indices are naturals, `len` is `L` of R114. -/
inductive Event where
  | decode (c len : Nat) (bytes : List Byte)
  | log (c : Nat) (err : FramingErr)
  | enableTx
  | disableTx
  | sendRequest (addr start count : Nat)
  | requestIdentity (addr : Nat)
  | publish (s a v : Nat)
  | publishError (s : Nat) (code : Code) (errCnt succCnt : Nat)
  | publishIdentity (s id : Nat)
deriving DecidableEq, Repr

/-- A byte space: (address, byte) pairs in canonical form, addresses strictly rising (`Memory.wf` in
Machine/Ops.lean). An address that is not listed holds no value (20_memory.md R69; log 12). -/
abbrev Memory := List Host.Cell

/-- The scratch map (20_memory.md R74): (register address, value) pairs, addresses strictly rising; an
address that is not listed is unset. -/
abbrev ScratchMap := List (Nat × Nat)

/-- One Channel unit (10_state.md R25 to R29) with its read-only configuration (R49). -/
structure Channel where
  cfg : ChannelCfg
  state : ChState
  cursor : Nat
  buf : Memory
  resume : Nat
deriving DecidableEq, Repr

/-- One slave record (10_state.md R32 to R38) with its read-only configuration (R50, R51). -/
structure Slave where
  cfg : SlaveCfg
  lastPoll : Nat
  idValid : Bool
  idVal : Nat
  idFresh : Bool
  succCnt : Nat
  errCnt : Nat
  lastErr : Code
deriving DecidableEq, Repr

/-- The PollScheduler's own registers (10_state.md R31, R40 to R47). -/
structure Scheduler where
  state : PsState
  curSlave : Nat
  curBlock : Nat
  map : ScratchMap
  deadline : Nat
  tainted : Bool
  rsp : List Byte
  txen : Bool
deriving DecidableEq, Repr

/-- The machine. `params`, and `cfg` inside each channel and slave record, are the configuration registers,
which no operation writes (10_state.md R53; log 1). `inbox`, `out` and `resets` are the model's own: the inputs
not yet applied, oldest first (log 3), every event emitted so far (log 8), and the number of resets
applied, read only to draw fresh unspecified values (log 9). -/
structure State where
  params : Params
  channels : List Channel
  slaves : List Slave
  ps : Scheduler
  inbox : List Input
  out : List Event
  resets : Nat
deriving DecidableEq, Repr

/-- Why the model stops where ACQ has no behaviour. No fault can happen in a state that satisfies
`State.Inv` (Safety.lean), so none is ACQ's (60_exceptions.md R189; log 13). -/
inductive Fault where
  /-- Raised by `CTICK` when it reads a buffer byte that holds no value (20_memory.md R69 calls the read a
  fault of the model). Safe: no run reaches such a state. -/
  | undefinedByte
  /-- Raised by `STICK` when `cur_slave` names no slave record, which 10_state.md R48 (b) excludes. Safe: no run
  reaches such a state. -/
  | noSuchSlave
  /-- Raised by `STICK` when `cur_block` names no register block, which 10_state.md R48 (b) excludes. Safe: no
  run reaches such a state. -/
  | noSuchBlock
deriving DecidableEq, Repr

/-- Why an input has no step. -/
inductive Refusal where
  /-- An arm of `exec` without a meaning. None is left; the host fixes the name. Safe. -/
  | notModelled (mnemonic : String)
  /-- The rows `reserved_*` (30_encoding.md R96 (a)): "a model gives them no step". Safe. -/
  | reservedOpcode
  /-- `ch >= NCH` (30_encoding.md R96 (b)). Safe. -/
  | noSuchChannel
  /-- A `STICK` with `ch != 0` (30_encoding.md R96 (c)), raised by the decoder. Safe. -/
  | stickWithChannel
  /-- The presented bits end inside an operation (30_encoding.md R97), raised by the decoder. Safe. -/
  | truncated
  /-- `bus_rsp.complete = 0` with `bus_rsp.len != 0` (30_encoding.md R97), raised by the decoder. Safe. -/
  | lenWithoutResponse
  /-- A `loop` whose operands do not fit their fields, raised by the decoder: its `STICK` has no encoding (log 7). Safe. -/
  | operandRange
  /-- A `frame` whose suffix has not `TRAILER - EML` bytes (30_encoding.md R100 (c)). Safe. -/
  | frameSuffixLength
  /-- A `frame` longer than 65535 bytes: its `PUSH` has no encoding (30_encoding.md R91). Safe. -/
  | burstTooLong
  /-- The configuration is not well-formed (00_scope.md R10: "a model must refuse any other"), raised by every
  meaning. Safe. -/
  | illFormedConfig
  /-- A row applied to a unit whose state its dispatch key does not name (30_encoding.md R95). The decoder never
  selects such a row, so no run meets this (log 5). Safe. -/
  | keyMismatch
deriving DecidableEq, Repr

/-- The configuration the state holds. -/
def State.config (s : State) : Config where
  params := s.params
  channels := s.channels.map Channel.cfg
  slaves := s.slaves.map Slave.cfg

/-! ### The state after reset (R205; the table "Reset values at a glance" of 10_state.md) -/

/-- Channel `c` right after the `k`-th reset. `resume` is unspecified: a free value of `TIME_W` bits (log 9). -/
def Channel.atReset (p : Params) (k c : Nat) (cfg : ChannelCfg) : Channel where
  cfg := cfg
  state := .idle
  cursor := 0
  buf := []
  resume := Config.unspecifiedResume k c % 2 ^ p.timeW

/-- Slave record `s` right after the `k`-th reset. `idVal` is unspecified: a free value of `ID_W` bits (log 9). -/
def Slave.atReset (p : Params) (k s : Nat) (cfg : SlaveCfg) : Slave where
  cfg := cfg
  lastPoll := 0
  idValid := false
  idVal := Config.unspecifiedIdVal k s % 2 ^ p.idW
  idFresh := false
  succCnt := 0
  errCnt := 0
  lastErr := 0

/-- The scheduler right after the `k`-th reset. `deadline` is unspecified: a free value of `TIME_W` bits (log 9). -/
def Scheduler.atReset (p : Params) (k : Nat) : Scheduler where
  state := .idle
  curSlave := 0
  curBlock := 0
  map := []
  deadline := Config.unspecifiedDeadline k % 2 ^ p.timeW
  tainted := false
  rsp := []
  txen := false

/-- The machine with configuration `g` right after the `k`-th reset, nothing presented and nothing emitted. -/
def State.atReset (k : Nat) (g : Config) : State where
  params := g.params
  channels := g.channels.zipIdx.map fun x => Channel.atReset g.params k x.2 x.1
  slaves := g.slaves.zipIdx.map fun x => Slave.atReset g.params k x.2 x.1
  ps := Scheduler.atReset g.params k
  inbox := []
  out := []
  resets := k

/-- The machine right after its first reset, with the configuration of log 2. -/
def State.reset : State := State.atReset 0 Config.atReset

end Sys2Proof.Machine
end

