-- ==== Sys2Proof/Machine/Configuration.lean ====
section
/-! DEFINITION. Well-formedness of a configuration (00_scope.md R10), which every meaning asks for: "a model
must refuse any other (no step, not a value)". -/

namespace Sys2Proof.Machine

open Sys2Proof

/-- `x < 2^(w-1)`, the range of the intervals that arm a deadline (00_scope.md R8, R9). -/
def belowHalf (w x : Nat) : Bool := 2 * x < 2 ^ w

/-- The list without its repeats. -/
def distinct : List Nat → List Nat
  | [] => []
  | a :: as => if as.elem a then distinct as else a :: distinct as

/-- The addresses `start .. start+count-1` of a register block (20_memory.md R75). -/
def blockAddrs (b : Block) : List Nat := (List.range b.count).map (b.start + ·)

/-- All register addresses of a slave's blocks. -/
def slaveAddrs (c : SlaveCfg) : List Nat := c.blocks.flatMap blockAddrs

/-- R8, R10 (b) and (c): the ranges of a channel's registers, markers that can both be present in one
buffer, and the only framing policy with rules (40_channel.md R119). -/
def channelCfgWf (p : Params) (c : ChannelCfg) : Bool :=
  decide (1 ≤ c.cap) && decide (c.cap < 2 ^ 16) && decide (c.trailer < 2 ^ 16) && belowHalf p.timeW c.throttle &&
  decide (c.framing = .marker) &&
  decide (1 ≤ c.sm.length) && decide (1 ≤ c.em.length) && decide (c.em.length ≤ c.trailer) &&
  decide (c.sm.length + c.trailer ≤ c.cap)

/-- R9: a register block is not empty and its addresses do not wrap. -/
def blockWf (p : Params) (b : Block) : Bool :=
  decide (1 ≤ b.count) && decide (b.start + b.count ≤ 2 ^ p.regAddrW)

/-- R9, R10 (d) and (e): the ranges of a slave's registers, a block to poll where the slave is enabled, and
room for its addresses in the scratch map. -/
def slaveCfgWf (p : Params) (c : SlaveCfg) : Bool :=
  decide (c.addr < 2 ^ p.busAddrW) && decide (c.interval < 2 ^ p.timeW) && decide (c.blocks.length ≤ 256) &&
  c.blocks.all (blockWf p) &&
  (decide (c.interval = 0) || decide (1 ≤ c.blocks.length)) &&
  decide ((distinct (slaveAddrs c)).length ≤ p.mapCap)

/-- R9: the ranges of the scheduler's global registers. -/
def paramsWf (p : Params) : Bool :=
  belowHalf p.timeW p.tSettle && belowHalf p.timeW p.tResponse && decide (p.minFrame < 2 ^ 16)

/-- 00_scope.md R10. -/
def configWf (g : Config) : Bool :=
  paramsWf g.params &&
  decide (1 ≤ g.channels.length) && decide (g.channels.length ≤ 256) && g.channels.all (channelCfgWf g.params) &&
  decide (g.slaves.length ≤ 256) && g.slaves.all (slaveCfgWf g.params)

end Sys2Proof.Machine
end

