-- ==== Sys2Proof/Machine/Operands.lean ====
section
/-! DEFINITION. What the rules compute from operands: the three time primitives of 00_scope.md R12, the
classification of a timeout (41_pollscheduler.md R132), and the function parameter `BusDecode`
(43_interfaces.md R166). -/

namespace Sys2Proof.Machine

open Sys2Proof

/-- `tadd(t, d) = (t + d) mod 2^TIME_W` (R12). -/
def tadd (p : Params) (t d : Nat) : Nat := (t + d) % 2 ^ p.timeW

/-- `elapsed(now, t0) = (now - t0) mod 2^TIME_W` (R12): the difference of the integers, read as unsigned. -/
def elapsed (p : Params) (now t0 : Nat) : Nat := (((now : Int) - (t0 : Int)) % ((2 ^ p.timeW : Nat) : Int)).toNat

/-- `reached(now, dl)` (R12): the modular difference is below half of `2^TIME_W`. -/
def reached (p : Params) (now dl : Nat) : Bool := 2 * elapsed p now dl < 2 ^ p.timeW

/-- The code of a response deadline that passed (R132): `NotEnoughBytes` below the minimum frame size, else
what the bus reports, `NoResponse`/`Timeout` where it reports nothing. -/
def timeoutCode (p : Params) (bus : BusRsp) : Code :=
  if bus.avail.toNat < p.minFrame then 0xE4
  else if bus.err = 0x00 then 0xE2
  else bus.err

/-- What `BusDecode` answers (R166). -/
inductive Decoded where
  | ok (values : List Nat)
  | err (code : Code)
deriving DecidableEq, Repr

/-- `BusDecode(addr, start, count, rsp)` (R166): an uninterpreted total function, cut to the contract the rule
states: `count` values of `VAL_W` bits each, or a nonzero code (log 11). -/
def busDecode (p : Params) (addr start count : Nat) (rsp : List Byte) : Decoded :=
  if Config.busAccepts addr start count rsp then
    .ok ((List.range count).map fun i => Config.busValue addr start count rsp i % 2 ^ p.valW)
  else
    .err (BitVec.ofNat 8 (Config.busCode addr start count rsp % 255 + 1))

end Sys2Proof.Machine
end

