-- ==== Sys2Proof/Machine/Flags.lean ====
section
/-! DEFINITION. The flags of ACQ (10_state.md R55): the derived flag `enabled` and the predicates of
41_pollscheduler.md R126 that read the flags, the scan by lowest index, and the writes of `id_valid`,
`id_fresh`, `tainted` and `txen` with what goes with each. -/

namespace Sys2Proof.Machine

open Sys2Proof

/-- `enabled(s)` (10_state.md R39). -/
def Slave.enabled (r : Slave) : Bool := 0 < r.cfg.interval

/-- `undiscovered(s)` (R126). -/
def Slave.undiscovered (r : Slave) : Bool := r.enabled && !r.idValid

/-- `due(s, now)` (R126). -/
def Slave.due (p : Params) (now : Nat) (r : Slave) : Bool :=
  r.enabled && decide (r.cfg.interval ≤ elapsed p now r.lastPoll)

/-- The least index from `i` on whose record satisfies `q`, with the record: `least s with P(s)` (00_scope.md R13). -/
def leastFrom (q : Slave → Bool) : List Slave → Nat → Option (Nat × Slave)
  | [], _ => none
  | r :: rs, i => if q r then some (i, r) else leastFrom q rs (i + 1)

/-- The slave the identity branch queries (R127). -/
def State.leastUndiscovered (s : State) : Option (Nat × Slave) := leastFrom Slave.undiscovered s.slaves 0

/-- The slave the selection branch picks (R128): the lowest index among the due ones. -/
def State.leastDue (s : State) (now : Nat) : Option (Nat × Slave) := leastFrom (Slave.due s.params now) s.slaves 0

/-- The identity answer (R127): `id_val`, `id_valid` and `id_fresh`, only when the query was answered. -/
def Slave.answer (r : Slave) (id : IdRsp) : Slave :=
  if id.valid then { r with idVal := id.val, idValid := true, idFresh := true } else r

/-- The identity has been published (R137 (c)): `id_fresh` is cleared. -/
def Slave.identityPublished (r : Slave) : Slave := { r with idFresh := false }

/-- The slave record's share of a polling error (60_exceptions.md R181): `err_cnt` rises by one modulo
`2^CNT_W` and `last_err` takes the code. -/
def Slave.failed (p : Params) (r : Slave) (code : Code) : Slave :=
  { r with errCnt := (r.errCnt + 1) % 2 ^ p.cntW, lastErr := code }

/-- A decoded block (R135, 60_exceptions.md R196): `succ_cnt` rises by one modulo `2^CNT_W`, `last_err` is left. -/
def Slave.succeeded (p : Params) (r : Slave) : Slave :=
  { r with succCnt := (r.succCnt + 1) % 2 ^ p.cntW }

/-- `tainted <- 1` (R181). -/
def Scheduler.taint (ps : Scheduler) : Scheduler := { ps with tainted := true }

/-- The transmit-enable line is armed (41_pollscheduler.md R129). -/
def Scheduler.armLine (ps : Scheduler) : Scheduler := { ps with txen := true }

/-- The transmit-enable line is released (R130). -/
def Scheduler.releaseLine (ps : Scheduler) : Scheduler := { ps with txen := false }

end Sys2Proof.Machine
end

