-- ==== Sys2Proof/Machine/Ops.lean ====
section
/-! DEFINITION. The named operations over memories and registers, the guards every meaning stands under,
and the two error entries with their returns (60_exceptions.md R179 to R182). -/

namespace Sys2Proof.Machine

open Sys2Proof

/-- What every meaning answers. -/
abbrev Result := Host.Outcome State Fault Refusal

/-! ### Cells: the one canonical form of both memories -/

/-- The value at address `a`, none where it holds no value. -/
def cellsGet {α : Type} (a : Nat) : List (Nat × α) → Option α
  | [] => none
  | (k, v) :: rest => if k = a then some v else cellsGet a rest

/-- The cells with `v` at address `a`. -/
def cellsPut {α : Type} (a : Nat) (v : α) : List (Nat × α) → List (Nat × α)
  | [] => [(a, v)]
  | (k, w) :: rest =>
    if a < k then (a, v) :: (k, w) :: rest
    else if k = a then (a, v) :: rest
    else (k, w) :: cellsPut a v rest

/-- The cells with the listed values at `off`, `off+1`, ..., stored in increasing address. -/
def cellsPutAll {α : Type} (off : Nat) : List α → List (Nat × α) → List (Nat × α)
  | [], m => m
  | v :: vs, m => cellsPutAll (off + 1) vs (cellsPut off v m)

/-- The cells without address `a`. -/
def cellsErase {α : Type} (a : Nat) : List (Nat × α) → List (Nat × α)
  | [] => []
  | (k, w) :: rest => if k = a then rest else (k, w) :: cellsErase a rest

/-- The `n` values from `off` on, none where one of them is missing. -/
def cellsRead {α : Type} (off : Nat) : Nat → List (Nat × α) → Option (List α)
  | 0, _ => some []
  | n + 1, m =>
    match cellsGet off m with
    | none => none
    | some v => (cellsRead (off + 1) n m).map (v :: ·)

/-- Canonical form: addresses strictly rising. -/
def cellsWf {α : Type} : List (Nat × α) → Bool
  | [] => true
  | [_] => true
  | x :: y :: rest => decide (x.1 < y.1) && cellsWf (y :: rest)

/-- The canonical form of a byte space. -/
def Memory.wf (m : Memory) : Bool := cellsWf m

/-- One byte; none at an address that holds no value (20_memory.md R69). -/
def Memory.read (m : Memory) (a : Nat) : Option Byte := cellsGet a m

/-- `MemRead(B, off, n)` (20_memory.md R68); none where a byte of the window holds no value. -/
def Memory.readBytes (m : Memory) (off n : Nat) : Option (List Byte) := cellsRead off n m

/-- `MemWrite(B, off, n, d)` (20_memory.md R67). -/
def Memory.writeBytes (m : Memory) (off : Nat) (d : List Byte) : Memory := cellsPutAll off d m

/-- The canonical form of the scratch map. -/
def ScratchMap.wf (m : ScratchMap) : Bool := cellsWf m

/-- `map[a]` (20_memory.md R74). -/
def ScratchMap.lookup (m : ScratchMap) (a : Nat) : Option Nat := cellsGet a m

/-- `map[start + i] <- v[i]` in increasing `i` (41_pollscheduler.md R135). -/
def ScratchMap.store (m : ScratchMap) (start : Nat) (vs : List Nat) : ScratchMap := cellsPutAll start vs m

/-- The entry at `min(dom(map))`: the first one, the addresses being listed in rising order. -/
def ScratchMap.least (m : ScratchMap) : Option (Nat × Nat) := m.head?

/-- `map \ {a}`. -/
def ScratchMap.remove (m : ScratchMap) (a : Nat) : ScratchMap := cellsErase a m

/-! ### Register writes -/

/-- `emit` (00_scope.md R13): the events of one operation, in order, after those of every earlier one
(20_memory.md R76 (c)). -/
def State.emit (s : State) (es : List Event) : State := { s with out := s.out ++ es }

/-- The record of channel `i` replaced. -/
def State.setChannel (s : State) (i : Nat) (c : Channel) : State := { s with channels := s.channels.set i c }

/-- The record of slave `i` replaced. -/
def State.setSlave (s : State) (i : Nat) (r : Slave) : State := { s with slaves := s.slaves.set i r }

/-- The scheduler's registers replaced. -/
def State.setPs (s : State) (ps : Scheduler) : State := { s with ps := ps }

/-- Inputs put before the waiting ones: the expansion of a pseudo-operation (30_encoding.md R100; log 7). -/
def State.present (s : State) (is : List Input) : State := { s with inbox := is ++ s.inbox }

/-- `Discard(c)` on the record (40_channel.md R116). Every byte is undefined again (20_memory.md R69; log 12);
`resume` is not written. -/
def Channel.discard (c : Channel) : Channel := { c with cursor := 0, buf := [], state := .idle }

/-- The append of a burst (20_memory.md R67; 40_channel.md R106, R107). -/
def Channel.append (c : Channel) (d : List Byte) : Channel :=
  { c with buf := c.buf.writeBytes c.cursor d, cursor := c.cursor + d.length, state := .collecting }

/-! ### Taking an error and returning from one -/

/-- `raise FramingError(c, code)` on channel `i` (60_exceptions.md R179): log, discard. The channel is then in
`Idle` with an empty buffer, so there is nothing to return from (R180). -/
def State.framingError (s : State) (i : Nat) (c : Channel) (err : FramingErr) : State :=
  (s.setChannel i c.discard).emit [.log i err]

/-- `raise PollError(s, code)` for slave `i` with record `r` (60_exceptions.md R181), with the raising rule's
`ps.state <- Publishing`. No event; the map, `cur_block` and every other register stay. -/
def State.pollError (s : State) (i : Nat) (r : Slave) (code : Code) : State :=
  (s.setSlave i (r.failed s.params code)).setPs { s.ps.taint with state := .publishing }

/-- `DestroyCycle` (41_pollscheduler.md R138): the return from a poll cycle, clean or failed (R182). `deadline`
and the slave records are left. -/
def Scheduler.destroyCycle (ps : Scheduler) : Scheduler :=
  { ps with curSlave := 0, curBlock := 0, tainted := false, rsp := [], state := .idle }

/-- Reset (70_reset_and_hazards.md R205): every register at its reset value, the configuration kept. No event.
What is waiting in `inbox` and what was emitted are no registers and stay (log 21). -/
def State.applyReset (s : State) : State :=
  { State.atReset (s.resets + 1) s.config with inbox := s.inbox, out := s.out }

/-! ### Guards -/

/-- Only a well-formed configuration has a step (00_scope.md R10; log 14). -/
def ready (s : State) (k : Result) : Result :=
  if configWf s.config then k else .refused .illFormedConfig

/-- A row of the Channel machine: channel `ch` exists (30_encoding.md R96 (b)) and is in the state the row's
dispatch key names (R95). -/
def onChannel (s : State) (ch : ChField) (st : ChState) (k : Channel → Result) : Result :=
  ready s (match s.channels[ch.toNat]? with
    | none => .refused .noSuchChannel
    | some c => if c.state = st then k c else .refused .keyMismatch)

/-- A row of the PollScheduler: it is in the state the row's dispatch key names and the row's condition
holds (30_encoding.md R95, opcode_table.json "condition"). -/
def onScheduler (s : State) (st : PsState) (cond : Bool) (k : Result) : Result :=
  ready s (if s.ps.state = st then (if cond then k else .refused .keyMismatch) else .refused .keyMismatch)

/-- The record of the slave the cycle is polling, `sl[cur_slave]`. -/
def withSlave (s : State) (k : Slave → Result) : Result :=
  match s.slaves[s.ps.curSlave]? with
  | none => .fault .noSuchSlave
  | some r => k r

/-- The register block the cycle has reached, `BLK[cur_slave][cur_block]`. -/
def withBlock (s : State) (r : Slave) (k : Block → Result) : Result :=
  match r.cfg.blocks[s.ps.curBlock]? with
  | none => .fault .noSuchBlock
  | some b => k b

end Sys2Proof.Machine
end

