-- ==== Sys2Proof/Machine/ChannelTick.lean ====
section
/-! DEFINITION. The rows of `CTICK` (40_channel.md R111 to R115): validation, delivery, throttling. -/

namespace Sys2Proof.Machine

open Sys2Proof

/-- What validation finds (R112): nothing wrong, an error, or a window that is not all there (20_memory.md R69, a
fault of the model that no run meets). -/
inductive Verdict where
  | good
  | bad (err : FramingErr)
  | undefinedWindow
deriving DecidableEq, Repr

/-- The validation algorithm (R112): length, start marker, end marker, the first failure reported (60_exceptions.md
R183). Payload and trailer suffix are not looked at (20_memory.md R73). -/
def Channel.validate (c : Channel) : Verdict :=
  if c.cursor < c.cfg.sm.length + c.cfg.trailer then .bad .frameTooShort
  else
    match c.buf.readBytes 0 c.cfg.sm.length with
    | none => .undefinedWindow
    | some start =>
      if start ≠ c.cfg.sm then .bad .startMarkerMismatch
      else
        match c.buf.readBytes (c.cursor - c.cfg.trailer) c.cfg.em.length with
        | none => .undefinedWindow
        | some stop => if stop ≠ c.cfg.em then .bad .endMarkerMismatch else .good

/-- The record after a delivery at `now` (R114): throttled until `now + THROTTLE` where an interval is
configured, discarded otherwise. -/
def Channel.delivered (p : Params) (c : Channel) (now : Nat) : Channel :=
  if 0 < c.cfg.throttle then { c with resume := tadd p now c.cfg.throttle, state := .throttled } else c.discard

/-- `Deliver(c, now)` (R114): the whole buffer goes to the Decoder once. -/
def State.deliver (s : State) (i : Nat) (c : Channel) (now : Nat) : Result :=
  match c.buf.readBytes 0 c.cursor with
  | none => .fault .undefinedByte
  | some bytes => .next ((s.setChannel i (c.delivered s.params now)).emit [.decode i c.cursor bytes])

/-- `CTICK` in `Idle` (R111): no effect. -/
def execCtickIdle (ch : ChField) (_now : Nat) (s : State) : Result :=
  onChannel s ch .idle fun _ => .next s

/-- `CTICK` in `Collecting` (R111): no effect. -/
def execCtickCollecting (ch : ChField) (_now : Nat) (s : State) : Result :=
  onChannel s ch .collecting fun _ => .next s

/-- `CTICK` in `Validating` (R113): a framing error, or the step to `Delivering` and its action in the same
operation (90_conflicts.md C2). -/
def execCtickValidating (ch : ChField) (now : Nat) (s : State) : Result :=
  onChannel s ch .validating fun c =>
    match c.validate with
    | .undefinedWindow => .fault .undefinedByte
    | .bad err => .next (s.framingError ch.toNat c err)
    | .good => s.deliver ch.toNat { c with state := .delivering } now

/-- `CTICK` in `Delivering` (R114). -/
def execCtickDelivering (ch : ChField) (now : Nat) (s : State) : Result :=
  onChannel s ch .delivering fun c => s.deliver ch.toNat c now

/-- `CTICK` in `Throttled` (R115): back to `Idle` when the deadline is reached. -/
def execCtickThrottled (ch : ChField) (now : Nat) (s : State) : Result :=
  onChannel s ch .throttled fun c =>
    .next (if reached s.params now c.resume then s.setChannel ch.toNat c.discard else s)

end Sys2Proof.Machine
end

