-- ==== Sys2Proof/Machine/Eob.lean ====
section
/-! DEFINITION. The rows of `EOB` (40_channel.md R109, R110). -/

namespace Sys2Proof.Machine

open Sys2Proof

/-- `EOB` in `Collecting` (R109): the channel is to be validated; cursor and buffer stay. -/
def execEobCollecting (ch : ChField) (s : State) : Result :=
  onChannel s ch .collecting fun c => .next (s.setChannel ch.toNat { c with state := .validating })

/-- `EOB` in `Idle` (R110): no effect. -/
def execEobIdle (ch : ChField) (s : State) : Result :=
  onChannel s ch .idle fun _ => .next s

/-- `EOB` in `Validating` (R110): no effect. -/
def execEobValidating (ch : ChField) (s : State) : Result :=
  onChannel s ch .validating fun _ => .next s

/-- `EOB` in `Delivering` (R110): no effect. -/
def execEobDelivering (ch : ChField) (s : State) : Result :=
  onChannel s ch .delivering fun _ => .next s

/-- `EOB` in `Throttled` (R110): no effect. -/
def execEobThrottled (ch : ChField) (s : State) : Result :=
  onChannel s ch .throttled fun _ => .next s

end Sys2Proof.Machine
end

