-- ==== Sys2Proof/Machine/Codes.lean ====
section
/-! DEFINITION. The numeric codes of 30_encoding.md: states (R86, R87), framing errors (R88), polling errors
(R89), opcodes (R90), the dispatch key (R95) and the event codes (R98). -/

namespace Sys2Proof.Machine

open Sys2Proof

/-- R86. -/
def ChState.code : ChState → BitVec 3
  | .idle => 0b000
  | .collecting => 0b001
  | .validating => 0b010
  | .delivering => 0b011
  | .throttled => 0b100

/-- R87. -/
def PsState.code : PsState → BitVec 3
  | .idle => 0b000
  | .prepareTransmit => 0b001
  | .transmitting => 0b010
  | .awaitingResponse => 0b011
  | .decoding => 0b100
  | .advanceBlock => 0b101
  | .publishing => 0b110

/-- R88. -/
def FramingErr.code : FramingErr → BitVec 3
  | .frameTooShort => 1
  | .startMarkerMismatch => 2
  | .endMarkerMismatch => 3
  | .bufferOverflow => 4

/-- R89, from the name to the code. -/
def PollErr.code : PollErr → Code
  | .noError => 0x00
  | .illegalFunction => 0x01
  | .illegalDataAddress => 0x02
  | .illegalDataValue => 0x03
  | .slaveDeviceFailure => 0x04
  | .noResponse => 0xE2
  | .checksumError => 0xE3
  | .notEnoughBytes => 0xE4
  | .unknown code => code

/-- R89, from the code to the name. -/
def PollErr.ofCode (code : Code) : PollErr :=
  if code = 0x00 then .noError
  else if code = 0x01 then .illegalFunction
  else if code = 0x02 then .illegalDataAddress
  else if code = 0x03 then .illegalDataValue
  else if code = 0x04 then .slaveDeviceFailure
  else if code = 0xE2 then .noResponse
  else if code = 0xE3 then .checksumError
  else if code = 0xE4 then .notEnoughBytes
  else .unknown code

/-- The command word of an operation: `op` in bits 11:8, `ch` in bits 7:0 (R90, R96). -/
def cmdWord : Op → BitVec 12
  | .nop ch => 0b0000#4 ++ ch
  | .push ch _ => 0b0001#4 ++ ch
  | .eob ch => 0b0010#4 ++ ch
  | .ctick ch _ => 0b0011#4 ++ ch
  | .stick _ _ _ => 0b0100#4 ++ 0#8
  | .reserved0101 low => 0b0101#4 ++ low
  | .reserved011x low => 0b011#3 ++ low
  | .reserved1xxx low => 0b1#1 ++ low

/-- The dispatch key `op st` of a row (R95; "dispatch_key" of opcode_table.json). Rows without a unit have none. -/
def dispatchKey : Instr → Option (BitVec 7)
  | .nop _ => none
  | .pushIdle _ _ => some (0b0001#4 ++ ChState.idle.code)
  | .pushCollecting _ _ => some (0b0001#4 ++ ChState.collecting.code)
  | .pushValidating _ _ => some (0b0001#4 ++ ChState.validating.code)
  | .pushDelivering _ _ => some (0b0001#4 ++ ChState.delivering.code)
  | .pushThrottled _ _ => some (0b0001#4 ++ ChState.throttled.code)
  | .eobCollecting _ => some (0b0010#4 ++ ChState.collecting.code)
  | .eobIdle _ => some (0b0010#4 ++ ChState.idle.code)
  | .eobValidating _ => some (0b0010#4 ++ ChState.validating.code)
  | .eobDelivering _ => some (0b0010#4 ++ ChState.delivering.code)
  | .eobThrottled _ => some (0b0010#4 ++ ChState.throttled.code)
  | .ctickIdle _ _ => some (0b0011#4 ++ ChState.idle.code)
  | .ctickCollecting _ _ => some (0b0011#4 ++ ChState.collecting.code)
  | .ctickValidating _ _ => some (0b0011#4 ++ ChState.validating.code)
  | .ctickDelivering _ _ => some (0b0011#4 ++ ChState.delivering.code)
  | .ctickThrottled _ _ => some (0b0011#4 ++ ChState.throttled.code)
  | .stickIdleIdentity _ _ _ => some (0b0100#4 ++ PsState.idle.code)
  | .stickIdleSelect _ _ _ => some (0b0100#4 ++ PsState.idle.code)
  | .stickPrepareTransmit _ _ _ => some (0b0100#4 ++ PsState.prepareTransmit.code)
  | .stickTransmitting _ _ _ => some (0b0100#4 ++ PsState.transmitting.code)
  | .stickAwaitingComplete _ _ _ => some (0b0100#4 ++ PsState.awaitingResponse.code)
  | .stickAwaitingTimeout _ _ _ => some (0b0100#4 ++ PsState.awaitingResponse.code)
  | .stickAwaitingWait _ _ _ => some (0b0100#4 ++ PsState.awaitingResponse.code)
  | .stickDecoding _ _ _ => some (0b0100#4 ++ PsState.decoding.code)
  | .stickAdvanceBlock _ _ _ => some (0b0100#4 ++ PsState.advanceBlock.code)
  | .stickPublishing _ _ _ => some (0b0100#4 ++ PsState.publishing.code)
  | .reserved0101 _ => none
  | .reserved011x _ => none
  | .reserved1xxx _ => none
  | .reset => none
  | .loop _ _ _ => none
  | .frame _ _ _ => none

/-- The dispatch key an operation finds in a state (R95): the opcode and the state code, before the operation,
of the unit it addresses. -/
def State.keyOf (s : State) : Op → Option (BitVec 7)
  | .nop _ => none
  | .push ch _ => (s.channels[ch.toNat]?).map fun c => 0b0001#4 ++ c.state.code
  | .eob ch => (s.channels[ch.toNat]?).map fun c => 0b0010#4 ++ c.state.code
  | .ctick ch _ => (s.channels[ch.toNat]?).map fun c => 0b0011#4 ++ c.state.code
  | .stick _ _ _ => some (0b0100#4 ++ s.ps.state.code)
  | .reserved0101 _ => none
  | .reserved011x _ => none
  | .reserved1xxx _ => none

/-- The event code `ev` (R98). -/
def Event.code : Event → BitVec 4
  | .decode _ _ _ => 0b0001
  | .log _ _ => 0b0010
  | .enableTx => 0b0011
  | .disableTx => 0b0100
  | .sendRequest _ _ _ => 0b0101
  | .requestIdentity _ => 0b0110
  | .publish _ _ _ => 0b0111
  | .publishError _ _ _ _ => 0b1000
  | .publishIdentity _ _ => 0b1001

end Sys2Proof.Machine
end

