-- ==== Sys2Proof/WellFormed.lean ====
section
/-! DEFINITION. When the operands of an operation fit their fields (30_encoding.md R91 to R94, R97): what
can be encoded at all. The decoder answers only such terms. Well-formedness of a CONFIGURATION
(00_scope.md R10) is Machine/Configuration.lean. -/

namespace Sys2Proof

/-- A time fits `TIME_W` bits. -/
def timeFits (p : Params) (now : Nat) : Bool := now < 2 ^ p.timeW

/-- A byte string's length fits a 16-bit length field (`LEN_W`; R91, R94). -/
def lenFits (bytes : List Byte) : Bool := bytes.length < 2 ^ 16

/-- `id_rsp.val` fits `ID_W` bits (R94). -/
def IdRsp.wf (p : Params) (id : IdRsp) : Bool := id.val < 2 ^ p.idW

/-- `bus_rsp` is encodable: the response's length fits, and there is no data unless the response is complete (R97). -/
def BusRsp.wf (bus : BusRsp) : Bool := lenFits bus.data && (bus.complete || bus.data.isEmpty)

/-- The operands of a `STICK`. -/
def stickWf (p : Params) (now : Nat) (id : IdRsp) (bus : BusRsp) : Bool :=
  timeFits p now && id.wf p && bus.wf

def Op.wf (p : Params) : Op → Bool
  | .nop _ => true
  | .push _ data => lenFits data
  | .eob _ => true
  | .ctick _ now => timeFits p now
  | .stick now id bus => stickWf p now id bus
  | .reserved0101 _ => true
  | .reserved011x _ => true
  | .reserved1xxx _ => true

/-- The operation a row belongs to; the pseudo-operations have none. -/
def Instr.toOp : Instr → Option Op
  | .nop ch => some (.nop ch)
  | .pushIdle ch data => some (.push ch data)
  | .pushCollecting ch data => some (.push ch data)
  | .pushValidating ch data => some (.push ch data)
  | .pushDelivering ch data => some (.push ch data)
  | .pushThrottled ch data => some (.push ch data)
  | .eobCollecting ch => some (.eob ch)
  | .eobIdle ch => some (.eob ch)
  | .eobValidating ch => some (.eob ch)
  | .eobDelivering ch => some (.eob ch)
  | .eobThrottled ch => some (.eob ch)
  | .ctickIdle ch now => some (.ctick ch now)
  | .ctickCollecting ch now => some (.ctick ch now)
  | .ctickValidating ch now => some (.ctick ch now)
  | .ctickDelivering ch now => some (.ctick ch now)
  | .ctickThrottled ch now => some (.ctick ch now)
  | .stickIdleIdentity now id bus => some (.stick now id bus)
  | .stickIdleSelect now id bus => some (.stick now id bus)
  | .stickPrepareTransmit now id bus => some (.stick now id bus)
  | .stickTransmitting now id bus => some (.stick now id bus)
  | .stickAwaitingComplete now id bus => some (.stick now id bus)
  | .stickAwaitingTimeout now id bus => some (.stick now id bus)
  | .stickAwaitingWait now id bus => some (.stick now id bus)
  | .stickDecoding now id bus => some (.stick now id bus)
  | .stickAdvanceBlock now id bus => some (.stick now id bus)
  | .stickPublishing now id bus => some (.stick now id bus)
  | .reserved0101 low => some (.reserved0101 low)
  | .reserved011x low => some (.reserved011x low)
  | .reserved1xxx low => some (.reserved1xxx low)
  | .reset => none
  | .loop _ _ _ => none
  | .frame _ _ _ => none

/-- The operands of a row fit their fields. `loop` carries the operands of its `STICK` (R100 (b)); what a
`frame` asks of its byte strings depends on the channel's configuration and is checked where it is
expanded (R100 (c)). -/
def Instr.wf (p : Params) : Instr → Bool
  | .nop _ => true
  | .pushIdle _ data => lenFits data
  | .pushCollecting _ data => lenFits data
  | .pushValidating _ data => lenFits data
  | .pushDelivering _ data => lenFits data
  | .pushThrottled _ data => lenFits data
  | .eobCollecting _ => true
  | .eobIdle _ => true
  | .eobValidating _ => true
  | .eobDelivering _ => true
  | .eobThrottled _ => true
  | .ctickIdle _ now => timeFits p now
  | .ctickCollecting _ now => timeFits p now
  | .ctickValidating _ now => timeFits p now
  | .ctickDelivering _ now => timeFits p now
  | .ctickThrottled _ now => timeFits p now
  | .stickIdleIdentity now id bus => stickWf p now id bus
  | .stickIdleSelect now id bus => stickWf p now id bus
  | .stickPrepareTransmit now id bus => stickWf p now id bus
  | .stickTransmitting now id bus => stickWf p now id bus
  | .stickAwaitingComplete now id bus => stickWf p now id bus
  | .stickAwaitingTimeout now id bus => stickWf p now id bus
  | .stickAwaitingWait now id bus => stickWf p now id bus
  | .stickDecoding now id bus => stickWf p now id bus
  | .stickAdvanceBlock now id bus => stickWf p now id bus
  | .stickPublishing now id bus => stickWf p now id bus
  | .reserved0101 _ => true
  | .reserved011x _ => true
  | .reserved1xxx _ => true
  | .reset => true
  | .loop now id bus => stickWf p now id bus
  | .frame _ _ _ => true

end Sys2Proof
end

