-- ==== Sys2Proof/Decode.lean ====
section
/-! DEFINITION. Reading and writing what is presented to ACQ (30_encoding.md R90 to R97). Level 1 reads an
operation from bits; level 2 selects the row by the dispatch key (R95), which needs the present state: rows
of one operation share their words (log 5). The spec gives fields, widths and their order; that the
fields lie end to end with bit 0 of each first is the model's (log 4). -/

namespace Sys2Proof

open Sys2Proof.Machine

/-! ### Bit fields -/

/-- The low `w` bits of `v`, bit 0 first. -/
def fieldBits : Nat → Nat → List Bool
  | 0, _ => []
  | w + 1, v => (v % 2 == 1) :: fieldBits w (v / 2)

/-- The first `w` bits as a number, with the bits after them. -/
def takeField : Nat → List Bool → Option (Nat × List Bool)
  | 0, bs => some (0, bs)
  | _ + 1, [] => none
  | w + 1, b :: bs =>
    match takeField w bs with
    | none => none
    | some (v, rest) => some (2 * v + (if b then 1 else 0), rest)

/-- A byte string, first byte first (00_scope.md R11). -/
def byteBits : List Byte → List Bool
  | [] => []
  | b :: bs => fieldBits 8 b.toNat ++ byteBits bs

/-- The first `n` bytes, with the bits after them. -/
def takeBytes : Nat → List Bool → Option (List Byte × List Bool)
  | 0, bs => some ([], bs)
  | n + 1, bs =>
    match takeField 8 bs with
    | none => none
    | some (b, rest) =>
      match takeBytes n rest with
      | none => none
      | some (ds, rest') => some (BitVec.ofNat 8 b :: ds, rest')

/-! ### Level 1: bits to an operation -/

/-- The operands of a `PUSH` (R91). -/
def decodePush (ch : ChField) (bs : List Bool) : Except Refusal (Op × List Bool) :=
  match takeField 16 bs with
  | none => .error .truncated
  | some (len, bs) =>
    match takeBytes len bs with
    | none => .error .truncated
    | some (data, bs) => .ok (.push ch data, bs)

/-- The operand of a `CTICK` (R93). -/
def decodeCtick (p : Params) (ch : ChField) (bs : List Bool) : Except Refusal (Op × List Bool) :=
  match takeField p.timeW bs with
  | none => .error .truncated
  | some (now, bs) => .ok (.ctick ch now, bs)

/-- `bus_rsp` (R94): `complete`, `len`, `data`, `avail`, `err`; with `complete = 0` the length must be 0 (R97). -/
def decodeBus (bs : List Bool) : Except Refusal (BusRsp × List Bool) :=
  match takeField 1 bs with
  | none => .error .truncated
  | some (complete, bs) =>
    match takeField 16 bs with
    | none => .error .truncated
    | some (len, bs) =>
      if complete = 0 ∧ len ≠ 0 then .error .lenWithoutResponse
      else
        match takeBytes len bs with
        | none => .error .truncated
        | some (data, bs) =>
          match takeField 16 bs with
          | none => .error .truncated
          | some (avail, bs) =>
            match takeField 8 bs with
            | none => .error .truncated
            | some (err, bs) => .ok (⟨complete == 1, data, BitVec.ofNat 16 avail, BitVec.ofNat 8 err⟩, bs)

/-- The operands of a `STICK` (R94): `now`, `id_rsp.valid`, `id_rsp.val`, `bus_rsp`. -/
def decodeStick (p : Params) (bs : List Bool) : Except Refusal (Op × List Bool) :=
  match takeField p.timeW bs with
  | none => .error .truncated
  | some (now, bs) =>
    match takeField 1 bs with
    | none => .error .truncated
    | some (valid, bs) =>
      match takeField p.idW bs with
      | none => .error .truncated
      | some (val, bs) =>
        match decodeBus bs with
        | .error r => .error r
        | .ok (bus, bs) => .ok (.stick now ⟨valid == 1, val⟩ bus, bs)

/-- One operation from the front of the bits (R90), with the bits after it. Total; reserved opcodes are read as
the table's reserved rows, `STICK` with `ch != 0` is refused by name (R96). -/
def decodeOp (p : Params) (bs : List Bool) : Except Refusal (Op × List Bool) :=
  match takeField 12 bs with
  | none => .error .truncated
  | some (cmd, bs) =>
    let ch : ChField := BitVec.ofNat 8 (cmd % 256)
    match cmd / 256 with
    | 0 => .ok (.nop ch, bs)
    | 1 => decodePush ch bs
    | 2 => .ok (.eob ch, bs)
    | 3 => decodeCtick p ch bs
    | 4 => if ch = 0 then decodeStick p bs else .error .stickWithChannel
    | 5 => .ok (.reserved0101 (BitVec.ofNat 8 (cmd % 256)), bs)
    | 6 => .ok (.reserved011x (BitVec.ofNat 9 (cmd % 512)), bs)
    | 7 => .ok (.reserved011x (BitVec.ofNat 9 (cmd % 512)), bs)
    | _ => .ok (.reserved1xxx (BitVec.ofNat 11 (cmd % 2048)), bs)

/-! ### Level 2: an operation to a row -/

/-- The row of a `PUSH` (R95). -/
def pushRow (ch : ChField) (data : List Byte) : ChState → Instr
  | .idle => .pushIdle ch data
  | .collecting => .pushCollecting ch data
  | .validating => .pushValidating ch data
  | .delivering => .pushDelivering ch data
  | .throttled => .pushThrottled ch data

/-- The row of an `EOB` (R95). -/
def eobRow (ch : ChField) : ChState → Instr
  | .idle => .eobIdle ch
  | .collecting => .eobCollecting ch
  | .validating => .eobValidating ch
  | .delivering => .eobDelivering ch
  | .throttled => .eobThrottled ch

/-- The row of a `CTICK` (R95). -/
def ctickRow (ch : ChField) (now : Nat) : ChState → Instr
  | .idle => .ctickIdle ch now
  | .collecting => .ctickCollecting ch now
  | .validating => .ctickValidating ch now
  | .delivering => .ctickDelivering ch now
  | .throttled => .ctickThrottled ch now

/-- The row of a `STICK` (R95), with the conditions that split `Idle` (41_pollscheduler.md R127, R128) and
`AwaitingResponse` (R131 to R133). -/
def stickRow (s : State) (now : Nat) (id : IdRsp) (bus : BusRsp) : PsState → Instr
  | .idle => if s.leastUndiscovered.isSome then .stickIdleIdentity now id bus else .stickIdleSelect now id bus
  | .prepareTransmit => .stickPrepareTransmit now id bus
  | .transmitting => .stickTransmitting now id bus
  | .awaitingResponse =>
    if bus.complete then .stickAwaitingComplete now id bus
    else if reached s.params now s.ps.deadline then .stickAwaitingTimeout now id bus
    else .stickAwaitingWait now id bus
  | .decoding => .stickDecoding now id bus
  | .advanceBlock => .stickAdvanceBlock now id bus
  | .publishing => .stickPublishing now id bus

/-- The row of an operation in a state (R95). `ch >= NCH` addresses no channel and has no row (R96 (b)). -/
def selectRow (s : State) : Op → Except Refusal Instr
  | .nop ch => .ok (.nop ch)
  | .push ch data =>
    match s.channels[ch.toNat]? with
    | none => .error .noSuchChannel
    | some c => .ok (pushRow ch data c.state)
  | .eob ch =>
    match s.channels[ch.toNat]? with
    | none => .error .noSuchChannel
    | some c => .ok (eobRow ch c.state)
  | .ctick ch now =>
    match s.channels[ch.toNat]? with
    | none => .error .noSuchChannel
    | some c => .ok (ctickRow ch now c.state)
  | .stick now id bus => .ok (stickRow s now id bus s.ps.state)
  | .reserved0101 low => .ok (.reserved0101 low)
  | .reserved011x low => .ok (.reserved011x low)
  | .reserved1xxx low => .ok (.reserved1xxx low)

/-- What is left of a stretch of bits: the next operations, where there are any. -/
def leftover (bs : List Bool) : List Input := if bs.isEmpty then [] else [.bits bs]

/-- The row an input stands for in a state, with what is left of the input. -/
def decode (s : State) : Input → Except Refusal (Instr × List Input)
  | .rst => .ok (.reset, [])
  | .bits bs =>
    match decodeOp s.params bs with
    | .error r => .error r
    | .ok (op, rest) =>
      match selectRow s op with
      | .error r => .error r
      | .ok i => .ok (i, leftover rest)
  | .loop now id bus => if stickWf s.params now id bus then .ok (.loop now id bus, []) else .error .operandRange
  | .frame ch payload suffix => .ok (.frame ch payload suffix, [])

/-! ### The encoder -/

/-- `bus_rsp` in the order of R94. -/
def busBits (bus : BusRsp) : List Bool :=
  fieldBits 1 (if bus.complete then 1 else 0) ++ fieldBits 16 bus.data.length ++ byteBits bus.data ++
    fieldBits 16 bus.avail.toNat ++ fieldBits 8 bus.err.toNat

/-- The operand fields after the command word (R91 to R94). -/
def operandBits (p : Params) : Op → List Bool
  | .nop _ => []
  | .push _ data => fieldBits 16 data.length ++ byteBits data
  | .eob _ => []
  | .ctick _ now => fieldBits p.timeW now
  | .stick now id bus =>
    fieldBits p.timeW now ++ fieldBits 1 (if id.valid then 1 else 0) ++ fieldBits p.idW id.val ++ busBits bus
  | .reserved0101 _ => []
  | .reserved011x _ => []
  | .reserved1xxx _ => []

/-- An operation as presented: the command word, then its operand fields (R90). -/
def encodeOp (p : Params) (op : Op) : List Bool := fieldBits 12 (cmdWord op).toNat ++ operandBits p op

/-- A row as presented. The pseudo-operations have no command word and are presented by name (R100, R205). -/
def encode (p : Params) : Instr → Input
  | .nop ch => .bits (encodeOp p (.nop ch))
  | .pushIdle ch data => .bits (encodeOp p (.push ch data))
  | .pushCollecting ch data => .bits (encodeOp p (.push ch data))
  | .pushValidating ch data => .bits (encodeOp p (.push ch data))
  | .pushDelivering ch data => .bits (encodeOp p (.push ch data))
  | .pushThrottled ch data => .bits (encodeOp p (.push ch data))
  | .eobCollecting ch => .bits (encodeOp p (.eob ch))
  | .eobIdle ch => .bits (encodeOp p (.eob ch))
  | .eobValidating ch => .bits (encodeOp p (.eob ch))
  | .eobDelivering ch => .bits (encodeOp p (.eob ch))
  | .eobThrottled ch => .bits (encodeOp p (.eob ch))
  | .ctickIdle ch now => .bits (encodeOp p (.ctick ch now))
  | .ctickCollecting ch now => .bits (encodeOp p (.ctick ch now))
  | .ctickValidating ch now => .bits (encodeOp p (.ctick ch now))
  | .ctickDelivering ch now => .bits (encodeOp p (.ctick ch now))
  | .ctickThrottled ch now => .bits (encodeOp p (.ctick ch now))
  | .stickIdleIdentity now id bus => .bits (encodeOp p (.stick now id bus))
  | .stickIdleSelect now id bus => .bits (encodeOp p (.stick now id bus))
  | .stickPrepareTransmit now id bus => .bits (encodeOp p (.stick now id bus))
  | .stickTransmitting now id bus => .bits (encodeOp p (.stick now id bus))
  | .stickAwaitingComplete now id bus => .bits (encodeOp p (.stick now id bus))
  | .stickAwaitingTimeout now id bus => .bits (encodeOp p (.stick now id bus))
  | .stickAwaitingWait now id bus => .bits (encodeOp p (.stick now id bus))
  | .stickDecoding now id bus => .bits (encodeOp p (.stick now id bus))
  | .stickAdvanceBlock now id bus => .bits (encodeOp p (.stick now id bus))
  | .stickPublishing now id bus => .bits (encodeOp p (.stick now id bus))
  | .reserved0101 low => .bits (encodeOp p (.reserved0101 low))
  | .reserved011x low => .bits (encodeOp p (.reserved011x low))
  | .reserved1xxx low => .bits (encodeOp p (.reserved1xxx low))
  | .reset => .rst
  | .loop now id bus => .loop now id bus
  | .frame ch payload suffix => .frame ch payload suffix

/-! ### The opcode table's numbering -/

/-- The match and mask of a row's command word, from spec/opcode_table.json; the pseudo-operations have none. -/
def tableMatch : Instr → Option (BitVec 12 × BitVec 12)
  | .nop _ => some (0x000, 0xF00)
  | .pushIdle _ _ => some (0x100, 0xF00)
  | .pushCollecting _ _ => some (0x100, 0xF00)
  | .pushValidating _ _ => some (0x100, 0xF00)
  | .pushDelivering _ _ => some (0x100, 0xF00)
  | .pushThrottled _ _ => some (0x100, 0xF00)
  | .eobCollecting _ => some (0x200, 0xF00)
  | .eobIdle _ => some (0x200, 0xF00)
  | .eobValidating _ => some (0x200, 0xF00)
  | .eobDelivering _ => some (0x200, 0xF00)
  | .eobThrottled _ => some (0x200, 0xF00)
  | .ctickIdle _ _ => some (0x300, 0xF00)
  | .ctickCollecting _ _ => some (0x300, 0xF00)
  | .ctickValidating _ _ => some (0x300, 0xF00)
  | .ctickDelivering _ _ => some (0x300, 0xF00)
  | .ctickThrottled _ _ => some (0x300, 0xF00)
  | .stickIdleIdentity _ _ _ => some (0x400, 0xFFF)
  | .stickIdleSelect _ _ _ => some (0x400, 0xFFF)
  | .stickPrepareTransmit _ _ _ => some (0x400, 0xFFF)
  | .stickTransmitting _ _ _ => some (0x400, 0xFFF)
  | .stickAwaitingComplete _ _ _ => some (0x400, 0xFFF)
  | .stickAwaitingTimeout _ _ _ => some (0x400, 0xFFF)
  | .stickAwaitingWait _ _ _ => some (0x400, 0xFFF)
  | .stickDecoding _ _ _ => some (0x400, 0xFFF)
  | .stickAdvanceBlock _ _ _ => some (0x400, 0xFFF)
  | .stickPublishing _ _ _ => some (0x400, 0xFFF)
  | .reserved0101 _ => some (0x500, 0xF00)
  | .reserved011x _ => some (0x600, 0xE00)
  | .reserved1xxx _ => some (0x800, 0x800)
  | .reset => none
  | .loop _ _ _ => none
  | .frame _ _ _ => none

/-- How many bits the operation at the low end of `w` has: "a decoder knows the extent of an operation from the
command word and the length fields alone" (R97). -/
def extent (p : Params) (w : Nat) : Nat :=
  match w / 2 ^ 8 % 2 ^ 4 with
  | 1 => 12 + 16 + 8 * (w / 2 ^ 12 % 2 ^ 16)
  | 3 => 12 + p.timeW
  | 4 => 12 + p.timeW + 1 + p.idW + 1 + 16 + 8 * (w / 2 ^ (12 + p.timeW + 1 + p.idW + 1) % 2 ^ 16) + 16 + 8
  | _ => 12

/-- The instruction whose bits are `w`, bit 0 the least significant bit of the command word, bits from `nbits`
on 0, as an input (log 20). -/
def tableInput (p : Params) (nbits w : Nat) : Input :=
  .bits (fieldBits (extent p (w % 2 ^ nbits)) (w % 2 ^ nbits))

/-- The row the decoder reads from those bits in the state after reset: the state a row of its words needs is
not in the words (log 5, log 20). -/
def decodeTableWord (nbits w : Nat) : Option Instr :=
  match decode State.reset (tableInput State.reset.params nbits w) with
  | .error _ => none
  | .ok (i, _) => some i

end Sys2Proof
end

