-- ==== Sys2Proof/Machine/Pseudo.lean ====
section
/-! DEFINITION. The rows that address no unit: no operation, the reserved opcodes, reset, and the
pseudo-operations `loop` and `frame` (30_encoding.md R90, R96, R100; 42_tick_driver.md R150;
70_reset_and_hazards.md R205). -/

namespace Sys2Proof.Machine

open Sys2Proof

/-- `nop` (30_encoding.md R90): no operation presented; no state change, no event. -/
def execNop (_ch : ChField) (s : State) : Result := ready s (.next s)

/-- Opcode `0101` (R96 (a)): no step. -/
def execReserved0101 (_low : BitVec 8) (_s : State) : Result := .refused .reservedOpcode

/-- Opcodes `0110` and `0111` (R96 (a)): no step. -/
def execReserved011x (_low : BitVec 9) (_s : State) : Result := .refused .reservedOpcode

/-- Opcodes `1000` to `1111` (R96 (a)): no step. -/
def execReserved1xxx (_low : BitVec 11) (_s : State) : Result := .refused .reservedOpcode

/-- `reset` (70_reset_and_hazards.md R205). -/
def execReset (s : State) : Result := ready s (.next s.applyReset)

/-- The operations of one Tick Driver iteration (42_tick_driver.md R150): `CTICK` for every channel in increasing
index, then `STICK`, all with one clock sample. -/
def State.iteration (s : State) (now : Nat) (id : IdRsp) (bus : BusRsp) : List Op :=
  (List.range s.channels.length).map (fun c => Op.ctick (BitVec.ofNat 8 c) now) ++ [.stick now id bus]

/-- `loop` (R150; 30_encoding.md R100 (b)): "The expansion is a sequence, not one atomic step", so its operations are
put before the waiting inputs and each takes a step of its own (log 7). -/
def execLoop (now : Nat) (id : IdRsp) (bus : BusRsp) (s : State) : Result :=
  ready s (.next (s.present ((s.iteration now id bus).map fun op => .bits (encodeOp s.params op))))

/-- The bytes of a well-formed frame (30_encoding.md R100 (c); 20_memory.md R73). -/
def Channel.frameBytes (c : Channel) (payload suffix : List Byte) : List Byte :=
  c.cfg.sm ++ payload ++ c.cfg.em ++ suffix

/-- `frame` (R100 (c)): `push` of the start marker, payload, end marker and suffix, then `eob`, put before the
waiting inputs (log 7). The suffix has `TRAILER - EML` bytes and the burst must be encodable (log 23). -/
def execFrame (ch : ChField) (payload suffix : List Byte) (s : State) : Result :=
  ready s (match s.channels[ch.toNat]? with
    | none => .refused .noSuchChannel
    | some c =>
      if suffix.length ≠ c.cfg.trailer - c.cfg.em.length then .refused .frameSuffixLength
      else if 2 ^ 16 ≤ (c.frameBytes payload suffix).length then .refused .burstTooLong
      else .next (s.present
        [.bits (encodeOp s.params (.push ch (c.frameBytes payload suffix))), .bits (encodeOp s.params (.eob ch))]))

end Sys2Proof.Machine
end

