-- ==== Sys2Proof/Machine/Push.lean ====
section
/-! DEFINITION. The rows of `PUSH` (40_channel.md R106 to R108). -/

namespace Sys2Proof.Machine

open Sys2Proof

/-- A burst arriving at a channel that accepts bytes (R106, R107): nothing for an empty burst; overflow where the
cursor would pass `CAP`, losing the buffer and the burst; else the burst is appended whole. -/
def State.acceptBurst (s : State) (i : Nat) (c : Channel) (data : List Byte) : State :=
  if data.length = 0 then s
  else if c.cfg.cap < c.cursor + data.length then s.framingError i c .bufferOverflow
  else s.setChannel i (c.append data)

/-- `PUSH` in `Idle` (R106). -/
def execPushIdle (ch : ChField) (data : List Byte) (s : State) : Result :=
  onChannel s ch .idle fun c => .next (s.acceptBurst ch.toNat c data)

/-- `PUSH` in `Collecting` (R107). -/
def execPushCollecting (ch : ChField) (data : List Byte) (s : State) : Result :=
  onChannel s ch .collecting fun c => .next (s.acceptBurst ch.toNat c data)

/-- `PUSH` in `Validating` (R108): the burst is dropped silently. -/
def execPushValidating (ch : ChField) (_data : List Byte) (s : State) : Result :=
  onChannel s ch .validating fun _ => .next s

/-- `PUSH` in `Delivering` (R108): the burst is dropped silently. -/
def execPushDelivering (ch : ChField) (_data : List Byte) (s : State) : Result :=
  onChannel s ch .delivering fun _ => .next s

/-- `PUSH` in `Throttled` (R108): the burst is dropped silently. -/
def execPushThrottled (ch : ChField) (_data : List Byte) (s : State) : Result :=
  onChannel s ch .throttled fun _ => .next s

end Sys2Proof.Machine
end

