-- ==== Sys2Proof/Machine/SchedulerTick.lean ====
section
/-! DEFINITION. The rows of `STICK` (41_pollscheduler.md R127 to R137). -/

namespace Sys2Proof.Machine

open Sys2Proof

/-- Slave `d` is selected at `now` (R128): the poll cycle is created and `last_poll` stamped. -/
def State.startCycle (s : State) (d : Nat) (r : Slave) (now : Nat) : State :=
  (s.setSlave d { r with lastPoll := now }).setPs
    { s.ps with curSlave := d, curBlock := 0, tainted := false, state := .prepareTransmit }

/-- `STICK` in `Idle`, identity branch (R127): one query to the lowest-index enabled slave without identity, its
answer stored where there is one. -/
def execStickIdleIdentity (_now : Nat) (id : IdRsp) (_bus : BusRsp) (s : State) : Result :=
  onScheduler s .idle true
    (match s.leastUndiscovered with
    | none => .refused .keyMismatch
    | some (u, r) => .next ((s.setSlave u (r.answer id)).emit [.requestIdentity r.cfg.addr]))

/-- `STICK` in `Idle`, selection branch (R128): the lowest-index due slave starts its cycle. -/
def execStickIdleSelect (now : Nat) (_id : IdRsp) (_bus : BusRsp) (s : State) : Result :=
  onScheduler s .idle s.leastUndiscovered.isNone
    (match s.leastDue now with
    | none => .next s
    | some (d, r) => .next (s.startCycle d r now))

/-- `STICK` in `PrepareTransmit` (R129): the line is armed, the settle deadline recorded. -/
def execStickPrepareTransmit (now : Nat) (_id : IdRsp) (_bus : BusRsp) (s : State) : Result :=
  onScheduler s .prepareTransmit true
    (.next ((s.setPs { s.ps.armLine with deadline := tadd s.params now s.params.tSettle, state := .transmitting }).emit
      [.enableTx]))

/-- `STICK` in `Transmitting` (R130): once the settle deadline is reached the request goes out, the line is
released and the response deadline recorded. -/
def execStickTransmitting (now : Nat) (_id : IdRsp) (_bus : BusRsp) (s : State) : Result :=
  onScheduler s .transmitting true
    (if reached s.params now s.ps.deadline then
      withSlave s fun r => withBlock s r fun b =>
        .next ((s.setPs
            { s.ps.releaseLine with deadline := tadd s.params now s.params.tResponse, state := .awaitingResponse }).emit
          [.sendRequest r.cfg.addr b.start b.count, .disableTx])
    else .next s)

/-- `STICK` in `AwaitingResponse`, response complete (R131): it is latched; the deadline is not looked at
(60_exceptions.md R184). -/
def execStickAwaitingComplete (_now : Nat) (_id : IdRsp) (bus : BusRsp) (s : State) : Result :=
  onScheduler s .awaitingResponse bus.complete
    (.next (s.setPs { s.ps with rsp := bus.data, state := .decoding }))

/-- `STICK` in `AwaitingResponse`, deadline reached without a complete response (R132): one polling error. -/
def execStickAwaitingTimeout (now : Nat) (_id : IdRsp) (bus : BusRsp) (s : State) : Result :=
  onScheduler s .awaitingResponse (!bus.complete && reached s.params now s.ps.deadline)
    (withSlave s fun r => .next (s.pollError s.ps.curSlave r (timeoutCode s.params bus)))

/-- `STICK` in `AwaitingResponse`, still waiting (R133): no effect. -/
def execStickAwaitingWait (now : Nat) (_id : IdRsp) (bus : BusRsp) (s : State) : Result :=
  onScheduler s .awaitingResponse (!bus.complete && !reached s.params now s.ps.deadline) (.next s)

/-- The response was decoded (R135): its values go to the scratch map, the slave's success is counted. -/
def State.storeBlock (s : State) (r : Slave) (b : Block) (vs : List Nat) : State :=
  (s.setSlave s.ps.curSlave (r.succeeded s.params)).setPs
    { s.ps with map := s.ps.map.store b.start vs, rsp := [], state := .advanceBlock }

/-- The response did not decode (R135): one polling error, the latch emptied, nothing stored. -/
def State.rejectBlock (s : State) (r : Slave) (code : Code) : State :=
  let t := s.pollError s.ps.curSlave r code
  t.setPs { t.ps with rsp := [] }

/-- `STICK` in `Decoding` (R135). -/
def execStickDecoding (_now : Nat) (_id : IdRsp) (_bus : BusRsp) (s : State) : Result :=
  onScheduler s .decoding true
    (withSlave s fun r => withBlock s r fun b =>
      match busDecode s.params r.cfg.addr b.start b.count s.ps.rsp with
      | .ok vs => .next (s.storeBlock r b vs)
      | .err code => .next (s.rejectBlock r code))

/-- `STICK` in `AdvanceBlock` (R136): the next block, or publishing after the last; the comparison is on
naturals. -/
def execStickAdvanceBlock (_now : Nat) (_id : IdRsp) (_bus : BusRsp) (s : State) : Result :=
  onScheduler s .advanceBlock true
    (withSlave s fun r =>
      .next (s.setPs
        (if s.ps.curBlock + 1 < r.cfg.blocks.length then
          { s.ps with curBlock := s.ps.curBlock + 1, state := .prepareTransmit }
        else { s.ps with state := .publishing })))

/-- `STICK` in `Publishing` (R137): the first of the four steps that applies, one a tick: the error summary, the
value at the least address, the fresh identity, the end of the cycle. -/
def execStickPublishing (_now : Nat) (_id : IdRsp) (_bus : BusRsp) (s : State) : Result :=
  onScheduler s .publishing true
    (if s.ps.tainted then
      withSlave s fun r =>
        .next ((s.setPs { s.ps with map := [], tainted := false }).emit
          [.publishError s.ps.curSlave r.lastErr r.errCnt r.succCnt])
    else
      match s.ps.map.least with
      | some (a, v) =>
        .next ((s.setPs { s.ps with map := s.ps.map.remove a }).emit [.publish s.ps.curSlave a v])
      | none =>
        withSlave s fun r =>
          if r.idFresh then
            .next ((s.setSlave s.ps.curSlave r.identityPublished).emit [.publishIdentity s.ps.curSlave r.idVal])
          else .next (s.setPs s.ps.destroyCycle))

end Sys2Proof.Machine
end

