-- ==== Sys2Proof/Machine/Dispatch.lean ====
section
/-! DEFINITION. One arm per row of spec/opcode_table.json, in the table's order. -/

namespace Sys2Proof.Machine

open Sys2Proof

def exec (i : Instr) (s : State) : Host.Outcome State Fault Refusal :=
  match i with
  | .nop ch => Sys2Proof.Machine.execNop ch s
  | .pushIdle ch data => Sys2Proof.Machine.execPushIdle ch data s
  | .pushCollecting ch data => Sys2Proof.Machine.execPushCollecting ch data s
  | .pushValidating ch data => Sys2Proof.Machine.execPushValidating ch data s
  | .pushDelivering ch data => Sys2Proof.Machine.execPushDelivering ch data s
  | .pushThrottled ch data => Sys2Proof.Machine.execPushThrottled ch data s
  | .eobCollecting ch => Sys2Proof.Machine.execEobCollecting ch s
  | .eobIdle ch => Sys2Proof.Machine.execEobIdle ch s
  | .eobValidating ch => Sys2Proof.Machine.execEobValidating ch s
  | .eobDelivering ch => Sys2Proof.Machine.execEobDelivering ch s
  | .eobThrottled ch => Sys2Proof.Machine.execEobThrottled ch s
  | .ctickIdle ch now => Sys2Proof.Machine.execCtickIdle ch now s
  | .ctickCollecting ch now => Sys2Proof.Machine.execCtickCollecting ch now s
  | .ctickValidating ch now => Sys2Proof.Machine.execCtickValidating ch now s
  | .ctickDelivering ch now => Sys2Proof.Machine.execCtickDelivering ch now s
  | .ctickThrottled ch now => Sys2Proof.Machine.execCtickThrottled ch now s
  | .stickIdleIdentity now id bus => Sys2Proof.Machine.execStickIdleIdentity now id bus s
  | .stickIdleSelect now id bus => Sys2Proof.Machine.execStickIdleSelect now id bus s
  | .stickPrepareTransmit now id bus => Sys2Proof.Machine.execStickPrepareTransmit now id bus s
  | .stickTransmitting now id bus => Sys2Proof.Machine.execStickTransmitting now id bus s
  | .stickAwaitingComplete now id bus => Sys2Proof.Machine.execStickAwaitingComplete now id bus s
  | .stickAwaitingTimeout now id bus => Sys2Proof.Machine.execStickAwaitingTimeout now id bus s
  | .stickAwaitingWait now id bus => Sys2Proof.Machine.execStickAwaitingWait now id bus s
  | .stickDecoding now id bus => Sys2Proof.Machine.execStickDecoding now id bus s
  | .stickAdvanceBlock now id bus => Sys2Proof.Machine.execStickAdvanceBlock now id bus s
  | .stickPublishing now id bus => Sys2Proof.Machine.execStickPublishing now id bus s
  | .reserved0101 low => Sys2Proof.Machine.execReserved0101 low s
  | .reserved011x low => Sys2Proof.Machine.execReserved011x low s
  | .reserved1xxx low => Sys2Proof.Machine.execReserved1xxx low s
  | .reset => Sys2Proof.Machine.execReset s
  | .loop now id bus => Sys2Proof.Machine.execLoop now id bus s
  | .frame ch payload suffix => Sys2Proof.Machine.execFrame ch payload suffix s

end Sys2Proof.Machine
end

