-- ==== Sys2Proof/Machine/Fetch.lean ====
section
/-! DEFINITION. Taking the next input (log 3, log 6). -/

namespace Sys2Proof.Machine

open Sys2Proof

/-- The row to run next and the state with its input taken from `inbox`. An empty inbox is "no operation presented"
(30_encoding.md R90): `nop`. -/
def State.fetch (s : State) : Except Refusal (Instr × State) :=
  match s.inbox with
  | [] => .ok (.nop 0, s)
  | i :: rest =>
    match decode s i with
    | .error r => .error r
    | .ok (instr, left) => .ok (instr, { s with inbox := left ++ rest })

/-- The state in which the very next fetch reads the instruction whose bits are `w`, numbered as the opcode
table numbers them (log 20). -/
def State.presentWord (s : State) (nbits w : Nat) : State := s.present [tableInput s.params nbits w]

end Sys2Proof.Machine
end

