-- ==== Sys2Proof/Machine/Step.lean ====
section
/-! DEFINITION. One step: the next input is fetched and its row runs. Every operation is one atomic step
(00_scope.md R3). -/

namespace Sys2Proof.Machine

open Sys2Proof

/-- The state whose very next step fetches and runs the instruction with bits `w` (log 20). -/
def State.withFetchWord (s : State) (nbits w : Nat) : State := s.presentWord nbits w

def step (s : State) : Host.Outcome State Fault Refusal :=
  match s.fetch with
  | .error r => .refused r
  | .ok (i, t) => exec i t

end Sys2Proof.Machine
end

