-- ==== Sys2Proof/Machine/Events.lean ====
section
/-! DEFINITION. The encoding of the output events (30_encoding.md R98): the event code and the fields with
their widths, end to end as in Decode.lean (log 4). -/

namespace Sys2Proof.Machine

open Sys2Proof

/-- The fields of an event in the order and the widths of R98. -/
def Event.fields (p : Params) : Event → List Bool
  | .decode c len bytes => fieldBits 8 c ++ fieldBits 16 len ++ byteBits bytes
  | .log c err => fieldBits 8 c ++ fieldBits 3 err.code.toNat
  | .enableTx => []
  | .disableTx => []
  | .sendRequest addr start count =>
    fieldBits p.busAddrW addr ++ fieldBits p.regAddrW start ++ fieldBits (p.regAddrW + 1) count
  | .requestIdentity addr => fieldBits p.busAddrW addr
  | .publish s a v => fieldBits 8 s ++ fieldBits p.regAddrW a ++ fieldBits p.valW v
  | .publishError s code errCnt succCnt =>
    fieldBits 8 s ++ fieldBits 8 code.toNat ++ fieldBits p.cntW errCnt ++ fieldBits p.cntW succCnt
  | .publishIdentity s id => fieldBits 8 s ++ fieldBits p.idW id

/-- An event as its code and its fields. -/
def Event.bits (p : Params) (e : Event) : List Bool := fieldBits 4 e.code.toNat ++ e.fields p

/-- Whether an event's fields fit their widths. -/
def Event.wf (p : Params) : Event → Bool
  | .decode c len bytes => decide (c < 2 ^ 8) && decide (len < 2 ^ 16) && decide (bytes.length = len)
  | .log c _ => decide (c < 2 ^ 8)
  | .enableTx => true
  | .disableTx => true
  | .sendRequest addr start count =>
    decide (addr < 2 ^ p.busAddrW) && decide (start < 2 ^ p.regAddrW) && decide (count < 2 ^ (p.regAddrW + 1))
  | .requestIdentity addr => decide (addr < 2 ^ p.busAddrW)
  | .publish s a v => decide (s < 2 ^ 8) && decide (a < 2 ^ p.regAddrW) && decide (v < 2 ^ p.valW)
  | .publishError s _ errCnt succCnt =>
    decide (s < 2 ^ 8) && decide (errCnt < 2 ^ p.cntW) && decide (succCnt < 2 ^ p.cntW)
  | .publishIdentity s id => decide (s < 2 ^ 8) && decide (id < 2 ^ p.idW)

end Sys2Proof.Machine
end

