-- ==== Sys2Proof/Machine/Trace.lean ====
section
/-! DEFINITION. The trace syntax (30_encoding.md R99, R100): what one line of a trace presents to ACQ. The rules give the
lines by example; that blanks separate words, that a line ends at `;`, that both cases of a hexadecimal digit are
read and that the options of `stick` may stand in the order shown only are the model's reading (log 19). -/

namespace Sys2Proof.Machine

open Sys2Proof

/-- The words and marks of a line. -/
inductive Token where
  | word (cs : List Char)
  | comma
  | equals
  | lpar
  | rpar
deriving DecidableEq, Repr

/-- A word that has been read, if there is one, before the tokens after it. -/
def flushWord (acc : List Char) (ts : List Token) : List Token :=
  if acc.isEmpty then ts else .word acc.reverse :: ts

/-- The tokens of a line; `acc` holds the word being read, last character first. -/
def tokens (acc : List Char) : List Char → List Token
  | [] => flushWord acc []
  | c :: cs =>
    if c = ';' then flushWord acc []
    else if c = ' ' ∨ c = '\t' then flushWord acc (tokens [] cs)
    else if c = ',' then flushWord acc (.comma :: tokens [] cs)
    else if c = '=' then flushWord acc (.equals :: tokens [] cs)
    else if c = '(' then flushWord acc (.lpar :: tokens [] cs)
    else if c = ')' then flushWord acc (.rpar :: tokens [] cs)
    else tokens (c :: acc) cs

/-- The value of a digit of base `b`. -/
def digit (b : Nat) (c : Char) : Option Nat :=
  let v :=
    if '0'.toNat ≤ c.toNat ∧ c.toNat ≤ '9'.toNat then c.toNat - '0'.toNat
    else if 'A'.toNat ≤ c.toNat ∧ c.toNat ≤ 'F'.toNat then c.toNat - 'A'.toNat + 10
    else if 'a'.toNat ≤ c.toNat ∧ c.toNat ≤ 'f'.toNat then c.toNat - 'a'.toNat + 10
    else b
  if v < b then some v else none

/-- The number the digits write in base `b`, after what was read before them. -/
def digits (b acc : Nat) : List Char → Option Nat
  | [] => some acc
  | c :: cs =>
    match digit b c with
    | none => none
    | some d => digits b (acc * b + d) cs

/-- A number: decimal, or hexadecimal after `0x`. -/
def number : List Char → Option Nat
  | [] => none
  | '0' :: 'x' :: c :: cs => digits 16 0 (c :: cs)
  | c :: cs => digits 10 0 (c :: cs)

/-- A byte: two hexadecimal digits. -/
def bytePair : List Char → Option Byte
  | [a, b] => (digits 16 0 [a, b]).map (BitVec.ofNat 8)
  | _ => none

/-- The bytes at the front of the tokens, up to the first token that is not a word. -/
def byteRun : List Token → Option (List Byte × List Token)
  | .word w :: ts =>
    match bytePair w, byteRun ts with
    | some b, some (bs, rest) => some (b :: bs, rest)
    | _, _ => none
  | ts => some ([], ts)

/-- A byte string: `-`, or one byte or more. -/
def byteString : List Token → Option (List Byte × List Token)
  | .word ['-'] :: ts => some ([], ts)
  | .word w :: ts => byteRun (.word w :: ts)
  | _ => none

/-- A channel index that fits the `ch` field. -/
def channelIndex (w : List Char) : Option ChField :=
  match number w with
  | none => none
  | some c => if c < 2 ^ 8 then some (BitVec.ofNat 8 c) else none

/-- `, id=none` or `, id=<v>`, by default `id=none`. -/
def idOption : List Token → Option (IdRsp × List Token)
  | .comma :: .word ['i', 'd'] :: .equals :: .word w :: ts =>
    if w = ['n', 'o', 'n', 'e'] then some (IdRsp.none, ts) else (number w).map fun v => (IdRsp.answered v, ts)
  | ts => some (IdRsp.none, ts)

/-- `, rsp=pending(<avail>, <err>)` or `, rsp=complete(<bytes>)`, by default `pending(0, 0x00)`. -/
def rspOption : List Token → Option (BusRsp × List Token)
  | .comma :: .word ['r', 's', 'p'] :: .equals :: .word ['p', 'e', 'n', 'd', 'i', 'n', 'g'] :: .lpar :: .word a ::
      .comma :: .word e :: .rpar :: ts =>
    match number a, number e with
    | some a, some e =>
      if a < 2 ^ 16 ∧ e < 2 ^ 8 then some (BusRsp.pending (BitVec.ofNat 16 a) (BitVec.ofNat 8 e), ts) else none
    | _, _ => none
  | .comma :: .word ['r', 's', 'p'] :: .equals :: .word ['c', 'o', 'm', 'p', 'l', 'e', 't', 'e'] :: .lpar :: ts =>
    match byteString ts with
    | some (bytes, .rpar :: rest) => some (BusRsp.full bytes, rest)
    | _ => none
  | ts => some (BusRsp.pending 0 0, ts)

/-- The operands of `stick` and `loop`, to the end of the line. -/
def stickOperands : List Token → Option (Nat × IdRsp × BusRsp)
  | .word w :: ts =>
    match number w, idOption ts with
    | some now, some (id, ts) =>
      match rspOption ts with
      | some (bus, []) => some (now, id, bus)
      | _ => none
    | _, _ => none
  | _ => none

/-- An operation as an input, where its operands fit their fields. -/
def presentOp (p : Params) (op : Op) : Option Input := if op.wf p then some (.bits (encodeOp p op)) else none

/-- What one line of a trace presents (R99, R100), none where it is no line of the syntax or an operand does not fit. -/
def traceLine (p : Params) (line : List Char) : Option Input :=
  match tokens [] line with
  | .word ['p', 'u', 's', 'h'] :: .word c :: .comma :: ts =>
    match channelIndex c, byteString ts with
    | some ch, some (data, []) => presentOp p (.push ch data)
    | _, _ => none
  | [.word ['e', 'o', 'b'], .word c] =>
    match channelIndex c with
    | some ch => presentOp p (.eob ch)
    | none => none
  | [.word ['c', 't', 'i', 'c', 'k'], .word c, .comma, .word w] =>
    match channelIndex c, number w with
    | some ch, some now => presentOp p (.ctick ch now)
    | _, _ => none
  | .word ['s', 't', 'i', 'c', 'k'] :: ts =>
    match stickOperands ts with
    | some (now, id, bus) => presentOp p (.stick now id bus)
    | none => none
  | [.word ['n', 'o', 'p']] => presentOp p (.nop 0)
  | [.word ['r', 'e', 's', 'e', 't']] => some .rst
  | .word ['l', 'o', 'o', 'p'] :: ts =>
    match stickOperands ts with
    | some (now, id, bus) => if stickWf p now id bus then some (.loop now id bus) else none
    | none => none
  | .word ['f', 'r', 'a', 'm', 'e'] :: .word c :: .comma :: ts =>
    match channelIndex c, byteString ts with
    | some ch, some (payload, .comma :: ts) =>
      match byteString ts with
      | some (suffix, []) => some (.frame ch payload suffix)
      | _ => none
    | _, _ => none
  | _ => none

end Sys2Proof.Machine
end

