-- ==== Sys2Proof/Machine/Apply.lean ====
section
/-! DEFINITION. Operations applied to the machine directly, without the bits they are presented in: what the rules
of 40_channel.md and 41_pollscheduler.md call "applying" an operation. `step` is this after level 1 of
decoding (30_encoding.md R95). -/

namespace Sys2Proof.Machine

open Sys2Proof

/-- An operation applied in a state: its row is selected by the dispatch key, and runs. -/
def applyOp (s : State) (op : Op) : Result :=
  match selectRow s op with
  | .error r => .refused r
  | .ok i => exec i s

/-- A sequence of operations applied in order, up to the first that does not answer a next state. -/
def applyAll (s : State) : List Op → Result
  | [] => .next s
  | op :: ops =>
    match applyOp s op with
    | .next t => applyAll t ops
    | .fault f => .fault f
    | .refused r => .refused r

end Sys2Proof.Machine
end

