-- ==== Sys2Proof/Safety.lean ====
section
/-! DEFINITION. What holds of every state a run can reach (10_state.md R30, R48, and the widths of its registers),
and which operations are legal. -/

namespace Sys2Proof.Machine

open Sys2Proof

/-- A channel as runs leave it: R30 (a) to (d), the buffer holding a value exactly at the offsets below the cursor
(R28), `resume` within its width (R29). -/
abbrev Channel.Inv (p : Params) (c : Channel) : Prop :=
  c.cursor ≤ c.cfg.cap ∧
  (c.state = .idle → c.cursor = 0) ∧
  (c.state = .collecting → 1 ≤ c.cursor) ∧
  (c.state = .validating → 1 ≤ c.cursor) ∧
  c.state ≠ .delivering ∧
  c.buf.map Prod.fst = List.range c.cursor ∧
  c.resume < 2 ^ p.timeW

/-- A slave record as runs leave it: the widths of R33, R34, R36, R37 and R48 (e). -/
abbrev Slave.Inv (p : Params) (r : Slave) : Prop :=
  r.lastPoll < 2 ^ p.timeW ∧
  r.idVal < 2 ^ p.idW ∧
  (r.idFresh = true → r.idValid = true) ∧
  r.succCnt < 2 ^ p.cntW ∧
  r.errCnt < 2 ^ p.cntW

/-- No cycle is active (R48 (c); R41, R42 after R138). -/
abbrev Scheduler.Rests (ps : Scheduler) : Prop :=
  ps.map = [] ∧ ps.tainted = false ∧ ps.rsp = [] ∧ ps.curSlave = 0 ∧ ps.curBlock = 0

/-- The active cycle polls an enabled slave with a discovered identity, has a block to read (R48 (b)), and the
scratch map holds only addresses of that slave's blocks (R48 (d)). -/
abbrev State.CycleInv (s : State) : Prop :=
  ∃ r ∈ s.slaves[s.ps.curSlave]?,
    r.enabled = true ∧ r.idValid = true ∧ s.ps.curBlock < r.cfg.blocks.length ∧
    ∀ x ∈ s.ps.map, x.1 ∈ slaveAddrs r.cfg

/-- The scheduler's registers as runs leave them: R44 to R48. -/
abbrev Scheduler.Inv (p : Params) (ps : Scheduler) : Prop :=
  (ps.state = .idle → ps.Rests) ∧
  ps.map.wf = true ∧
  (∀ x ∈ ps.map, x.2 < 2 ^ p.valW) ∧
  ps.map.length ≤ p.mapCap ∧
  (ps.txen = true ↔ ps.state = .transmitting) ∧
  (ps.tainted = true → ps.state = .publishing) ∧
  (ps.rsp ≠ [] → ps.state = .decoding) ∧
  ps.rsp.length < 2 ^ 16 ∧
  ps.deadline < 2 ^ p.timeW

/-- What holds of every reachable state with a well-formed configuration. -/
abbrev State.Inv (s : State) : Prop :=
  configWf s.config = true ∧
  (∀ c ∈ s.channels, c.Inv s.params) ∧
  (∀ r ∈ s.slaves, r.Inv s.params) ∧
  s.ps.Inv s.params ∧
  (s.ps.state ≠ .idle → s.CycleInv)

/-- What an operation may leave in the state, events left aside (20_memory.md R76 (d) "as far as state goes"). -/
def State.withoutEvents (s : State) : State := { s with out := [] }

/-- The publish events (41_pollscheduler.md R142). -/
def Event.isPublish : Event → Bool
  | .decode _ _ _ => false
  | .log _ _ => false
  | .enableTx => false
  | .disableTx => false
  | .sendRequest _ _ _ => false
  | .requestIdentity _ => false
  | .publish _ _ _ => true
  | .publishError _ _ _ _ => true
  | .publishIdentity _ _ => true

/-- The unit an operation addresses: a channel, or the scheduler. -/
inductive UnitId where
  | channel (c : Nat)
  | scheduler
  | nobody
deriving DecidableEq, Repr

end Sys2Proof.Machine

namespace Sys2Proof

open Sys2Proof.Machine

/-- The operations 30_encoding.md R96 does not refuse: not reserved, and addressed to a channel that exists. -/
abbrev Op.legal (s : State) : Op → Prop
  | .nop _ => True
  | .push ch _ => ch.toNat < s.channels.length
  | .eob ch => ch.toNat < s.channels.length
  | .ctick ch _ => ch.toNat < s.channels.length
  | .stick _ _ _ => True
  | .reserved0101 _ => False
  | .reserved011x _ => False
  | .reserved1xxx _ => False

/-- Which unit's state an operation reads and writes (R72). -/
def Op.unit : Op → UnitId
  | .nop _ => .nobody
  | .push ch _ => .channel ch.toNat
  | .eob ch => .channel ch.toNat
  | .ctick ch _ => .channel ch.toNat
  | .stick _ _ _ => .scheduler
  | .reserved0101 _ => .nobody
  | .reserved011x _ => .nobody
  | .reserved1xxx _ => .nobody

end Sys2Proof
end

