-- ==== Sys2Proof/Certificates/Slice0/Obligations.lean ====
section
/-! DEFINITION. What is claimed of the model, rule by rule. `Obligations.X` is a statement; nothing is proved here.
Premises: `configWf s.config` is 00_scope.md R10 ("ACQ's rules are defined only for well-formed
configurations"); `State.Inv` is the invariant of Safety.lean, itself claimed to hold at reset and to be kept by
every step. -/

open Sys2Proof Sys2Proof.Machine

/-! ### Encodings and dispatch (30_encoding.md) -/

/-- R90 to R94, R97: what the encoder writes for an operation whose operands fit, the decoder reads back, and it
stops at the operation's own end. The layout of the fields is the model's (log 4). -/
def Obligations.DecodeOfEncodedOperation : Prop :=
  ∀ (p : Params) (op : Op) (rest : List Bool), op.wf p = true →
    decodeOp p (encodeOp p op ++ rest) = .ok (op, rest)

/-- R90 to R94, R97: the other direction: what the decoder accepts has operands that fit, and encodes to the bits it
was read from. The layout of the fields is the model's (log 4). -/
def Obligations.EncodeOfDecodedOperation : Prop :=
  ∀ (p : Params) (bs rest : List Bool) (op : Op), decodeOp p bs = .ok (op, rest) →
    op.wf p = true ∧ bs = encodeOp p op ++ rest

/-- R95: a row that the present state selects for its operation is what the decoder reads from its encoding;
likewise the rows presented by name. -/
def Obligations.DecodeOfEncodedRow : Prop :=
  ∀ (s : State) (i : Instr), i.wf s.params = true → (∀ op, i.toOp = some op → selectRow s op = .ok i) →
    decode s (encode s.params i) = .ok (i, [])

/-- R95: the row selected for an operation is a row of that operation, its dispatch key is the opcode with the state
code of the unit addressed, and every legal operation has a row. -/
def Obligations.SelectedRowHasTheDispatchKey : Prop :=
  (∀ (s : State) (op : Op) (i : Instr), selectRow s op = .ok i →
    i.toOp = some op ∧ dispatchKey i = s.keyOf op ∧ i.wf s.params = op.wf s.params) ∧
  (∀ (s : State) (op : Op), op.legal s → ∃ i, selectRow s op = .ok i)

/-- R90: a few command words, in the state after reset (whose configuration is the model's, log 2). -/
def Obligations.CommandWordsDecode : Prop :=
  decodeTableWord 16 0x000 = some (.nop 0) ∧
  decodeTableWord 16 0x100 = some (.pushIdle 0 []) ∧
  decodeTableWord 16 0x200 = some (.eobIdle 0) ∧
  decodeTableWord 16 0x300 = some (.ctickIdle 0 0) ∧
  decodeTableWord 16 0x400 = some (.stickIdleIdentity 0 ⟨false, 0⟩ ⟨false, [], 0, 0⟩) ∧
  decodeTableWord 16 0x401 = none ∧
  decodeTableWord 16 0x301 = none ∧
  decodeTableWord 16 0x5A7 = some (.reserved0101 0xA7) ∧
  decodeTableWord 16 0x7A7 = some (.reserved011x 0x1A7) ∧
  decodeTableWord 16 0xFA7 = some (.reserved1xxx 0x7A7)

/-- R96 (a): the reserved rows have no step, in any state. -/
def Obligations.ReservedOpcodesHaveNoStep : Prop :=
  (∀ (low : BitVec 8) (s : State), exec (.reserved0101 low) s = .refused .reservedOpcode) ∧
  (∀ (low : BitVec 9) (s : State), exec (.reserved011x low) s = .refused .reservedOpcode) ∧
  (∀ (low : BitVec 11) (s : State), exec (.reserved1xxx low) s = .refused .reservedOpcode)

/-- R96 (a) to (c), at the machine's own step: a presented reserved opcode, a channel operation with
`ch >= NCH` and a `STICK` with `ch != 0` have no step. -/
def Obligations.ReservedEncodingsHaveNoStep : Prop :=
  (∀ (s : State) (q : List Input) (rest : List Bool) (cmd : Nat), 0x500 ≤ cmd → cmd < 0x1000 →
    s.inbox = .bits (fieldBits 12 cmd ++ rest) :: q → step s = .refused .reservedOpcode) ∧
  (∀ (s : State) (q : List Input) (rest : List Bool) (ch : ChField) (data : List Byte), data.length < 2 ^ 16 →
    s.channels.length ≤ ch.toNat → s.inbox = .bits (encodeOp s.params (.push ch data) ++ rest) :: q →
    step s = .refused .noSuchChannel) ∧
  (∀ (s : State) (q : List Input) (rest : List Bool) (ch : ChField), s.channels.length ≤ ch.toNat →
    s.inbox = .bits (encodeOp s.params (.eob ch) ++ rest) :: q → step s = .refused .noSuchChannel) ∧
  (∀ (s : State) (q : List Input) (rest : List Bool) (ch : ChField) (now : Nat), now < 2 ^ s.params.timeW →
    s.channels.length ≤ ch.toNat → s.inbox = .bits (encodeOp s.params (.ctick ch now) ++ rest) :: q →
    step s = .refused .noSuchChannel) ∧
  (∀ (s : State) (q : List Input) (rest : List Bool) (ch : ChField), ch ≠ 0 →
    s.inbox = .bits (fieldBits 12 (0x400 + ch.toNat) ++ rest) :: q → step s = .refused .stickWithChannel)

/-- R89: the polling error codes: every code has one name, named codes as the table gives them. -/
def Obligations.PollingErrorCodesAreNamed : Prop :=
  (∀ code : Code, (PollErr.ofCode code).code = code) ∧
  PollErr.ofCode 0x00 = .noError ∧ PollErr.ofCode 0x01 = .illegalFunction ∧
  PollErr.ofCode 0x02 = .illegalDataAddress ∧ PollErr.ofCode 0x03 = .illegalDataValue ∧
  PollErr.ofCode 0x04 = .slaveDeviceFailure ∧ PollErr.ofCode 0xE2 = .noResponse ∧
  PollErr.ofCode 0xE3 = .checksumError ∧ PollErr.ofCode 0xE4 = .notEnoughBytes ∧
  (∀ code : Code, code ≠ 0x00 → code ≠ 0x01 → code ≠ 0x02 → code ≠ 0x03 → code ≠ 0x04 → code ≠ 0xE2 →
    code ≠ 0xE3 → code ≠ 0xE4 → PollErr.ofCode code = .unknown code)

/-- R98: the encoding of events is unambiguous: two events whose fields fit and whose bits begin the same stretch are
the same event. The layout of the fields is the model's (log 4). -/
def Obligations.EventEncodingIsUnambiguous : Prop :=
  ∀ (p : Params) (e f : Event) (r q : List Bool), e.wf p = true → f.wf p = true →
    e.bits p ++ r = f.bits p ++ q → e = f ∧ r = q

/-- R99, R100: lines of the trace syntax and what they present, over the widths of `State.reset` (log 2). How a line is cut
into words is the model's reading (log 19). -/
def Obligations.TraceLinesPresentTheirOperations : Prop :=
  traceLine Config.resetParams "push 0, 1B 1B".toList =
    some (.bits (encodeOp Config.resetParams (.push 0 [0x1B, 0x1B]))) ∧
  traceLine Config.resetParams "eob 3".toList = some (.bits (encodeOp Config.resetParams (.eob 3))) ∧
  traceLine Config.resetParams "ctick 1, 1000".toList = some (.bits (encodeOp Config.resetParams (.ctick 1 1000))) ∧
  traceLine Config.resetParams "stick 30000".toList = some (.bits (encodeOp Config.resetParams (.stickAt 30000))) ∧
  traceLine Config.resetParams "nop".toList = some (.bits (encodeOp Config.resetParams (.nop 0))) ∧
  traceLine Config.resetParams "reset".toList = some .rst ∧
  traceLine Config.resetParams "loop 500, id=0xBEEF, rsp=pending(4, 0xE3)".toList =
    some (.loop 500 (IdRsp.answered 0xBEEF) (BusRsp.pending 4 0xE3)) ∧
  traceLine Config.resetParams "frame 1, -, 00 12 34".toList = some (.frame 1 [] [0x00, 0x12, 0x34])

/-! ### The step -/

/-- A step runs the decoded row: when the oldest input decodes to `i` in this state, the step is `exec i` with that
input taken (what is left of its bits stays); an input that does not decode has no step; with nothing presented
the step is `nop` (log 3, log 6). -/
def Obligations.StepRunsTheDecodedRow : Prop :=
  (∀ (s : State) (inp : Input) (q left : List Input) (i : Instr), s.inbox = inp :: q →
    decode s inp = .ok (i, left) → step s = exec i { s with inbox := left ++ q }) ∧
  (∀ (s : State) (inp : Input) (q : List Input) (r : Refusal), s.inbox = inp :: q →
    decode s inp = .error r → step s = .refused r) ∧
  (∀ s : State, s.inbox = [] → step s = exec (.nop 0) s)

/-- R90, R95, R97: presenting an operation's bits applies the operation. That operations wait in the inbox (log 3), how
the fields lie in the bits, and that a stretch may hold several operations, so that the bits after this one stay
presented (log 4), are the model's choices. -/
def Obligations.StepAppliesThePresentedOperation : Prop :=
  ∀ (s : State) (op : Op) (rest : List Bool) (q : List Input), op.wf s.params = true →
    s.inbox = .bits (encodeOp s.params op ++ rest) :: q →
    step s = applyOp { s with inbox := leftover rest ++ q } op

/-- R90, R100 (d): `nop` changes nothing and emits nothing. -/
def Obligations.NopChangesNothing : Prop :=
  ∀ (s : State) (ch : ChField), configWf s.config = true → exec (.nop ch) s = .next s

/-- R10: with a configuration that is not well-formed the machine has no step. -/
def Obligations.IllFormedConfigurationHasNoStep : Prop :=
  (∀ s : State, configWf s.config = false → ∃ r, step s = .refused r) ∧
  (∀ (i : Instr) (s : State), configWf s.config = false → ∃ r, exec i s = .refused r)

/-- R53: no row writes a configuration register. -/
def Obligations.ConfigurationIsNeverWritten : Prop :=
  ∀ (i : Instr) (s t : State), exec i s = .next t → t.config = s.config

/-! ### Time (00_scope.md R12) -/

/-- R12: the three time primitives, over the integers; `reached` compares with half of the modulus. -/
def Obligations.TimePrimitivesAreModular : Prop :=
  ∀ (p : Params) (t d now t0 dl : Nat),
    ((tadd p t d : Nat) : Int) = ((t : Int) + d) % ((2 ^ p.timeW : Nat) : Int) ∧
    ((elapsed p now t0 : Nat) : Int) = ((now : Int) - t0) % ((2 ^ p.timeW : Nat) : Int) ∧
    (1 ≤ p.timeW →
      (reached p now dl = true ↔
        ((now : Int) - dl) % ((2 ^ p.timeW : Nat) : Int) < ((2 ^ p.timeW / 2 : Nat) : Int)))

/-! ### The Channel rows (40_channel.md) -/

/-- R106: `PUSH` in `Idle`. -/
def Obligations.PushInIdle : Prop :=
  ∀ (s : State) (ch : ChField) (data : List Byte) (c : Channel), configWf s.config = true →
    s.channels[ch.toNat]? = some c → c.state = .idle →
    exec (.pushIdle ch data) s = .next
      (if data.length = 0 then s
      else if c.cfg.cap < c.cursor + data.length then
        { s with
          channels := s.channels.set ch.toNat { c with cursor := 0, buf := [], state := .idle }
          out := s.out ++ [.log ch.toNat .bufferOverflow] }
      else
        { s with
          channels := s.channels.set ch.toNat
            { c with
              buf := c.buf.writeBytes c.cursor data
              cursor := c.cursor + data.length
              state := .collecting } })

/-- R107: `PUSH` in `Collecting`. -/
def Obligations.PushInCollecting : Prop :=
  ∀ (s : State) (ch : ChField) (data : List Byte) (c : Channel), configWf s.config = true →
    s.channels[ch.toNat]? = some c → c.state = .collecting →
    exec (.pushCollecting ch data) s = .next
      (if data.length = 0 then s
      else if c.cfg.cap < c.cursor + data.length then
        { s with
          channels := s.channels.set ch.toNat { c with cursor := 0, buf := [], state := .idle }
          out := s.out ++ [.log ch.toNat .bufferOverflow] }
      else
        { s with
          channels := s.channels.set ch.toNat
            { c with
              buf := c.buf.writeBytes c.cursor data
              cursor := c.cursor + data.length } })

/-- R108: a burst for a channel that is not accepting data is dropped silently. -/
def Obligations.PushElsewhereIsDropped : Prop :=
  ∀ (s : State) (ch : ChField) (data : List Byte) (c : Channel), configWf s.config = true →
    s.channels[ch.toNat]? = some c →
    (c.state = .validating → exec (.pushValidating ch data) s = .next s) ∧
    (c.state = .delivering → exec (.pushDelivering ch data) s = .next s) ∧
    (c.state = .throttled → exec (.pushThrottled ch data) s = .next s)

/-- R109: `EOB` in `Collecting`. -/
def Obligations.EndOfBurstInCollecting : Prop :=
  ∀ (s : State) (ch : ChField) (c : Channel), configWf s.config = true →
    s.channels[ch.toNat]? = some c → c.state = .collecting →
    exec (.eobCollecting ch) s =
      .next { s with channels := s.channels.set ch.toNat { c with state := .validating } }

/-- R110: `EOB` in any other state has no effect. -/
def Obligations.EndOfBurstElsewhereDoesNothing : Prop :=
  ∀ (s : State) (ch : ChField) (c : Channel), configWf s.config = true →
    s.channels[ch.toNat]? = some c →
    (c.state = .idle → exec (.eobIdle ch) s = .next s) ∧
    (c.state = .validating → exec (.eobValidating ch) s = .next s) ∧
    (c.state = .delivering → exec (.eobDelivering ch) s = .next s) ∧
    (c.state = .throttled → exec (.eobThrottled ch) s = .next s)

/-- R111: `CTICK` in `Idle` or `Collecting` has no effect. The spec infers it and marks it so ("[derived: from rule R105
and `60_exceptions.md` rule R189]"); its source says nothing of a tick in these two states. -/
def Obligations.TickInIdleOrCollectingDoesNothing : Prop :=
  ∀ (s : State) (ch : ChField) (now : Nat) (c : Channel), configWf s.config = true →
    s.channels[ch.toNat]? = some c →
    (c.state = .idle → exec (.ctickIdle ch now) s = .next s) ∧
    (c.state = .collecting → exec (.ctickCollecting ch now) s = .next s)

/-- R112: the validation algorithm, byte by byte, on a buffer that holds a value at every offset below the cursor. -/
def Obligations.ValidationAlgorithm : Prop :=
  ∀ (p : Params) (c : Channel), channelCfgWf p c.cfg = true → c.buf.map Prod.fst = List.range c.cursor →
    let short := c.cursor < c.cfg.sm.length + c.cfg.trailer
    let startOk := ∀ i < c.cfg.sm.length, c.buf.read i = c.cfg.sm[i]?
    let endOk := ∀ i < c.cfg.em.length, c.buf.read (c.cursor - c.cfg.trailer + i) = c.cfg.em[i]?
    (short → c.validate = .bad .frameTooShort) ∧
    (¬short → ¬startOk → c.validate = .bad .startMarkerMismatch) ∧
    (¬short → startOk → ¬endOk → c.validate = .bad .endMarkerMismatch) ∧
    (¬short → startOk → endOk → c.validate = .good)

/-- R113: `CTICK` in `Validating`: a framing error with its log and discard, or the delivery of the whole buffer in
the same operation. -/
def Obligations.TickInValidating : Prop :=
  ∀ (s : State) (ch : ChField) (now : Nat) (c : Channel), configWf s.config = true →
    s.channels[ch.toNat]? = some c → c.state = .validating → c.buf.map Prod.fst = List.range c.cursor →
    (∀ err, c.validate = .bad err →
      exec (.ctickValidating ch now) s = .next
        { s with
          channels := s.channels.set ch.toNat { c with cursor := 0, buf := [], state := .idle }
          out := s.out ++ [.log ch.toNat err] }) ∧
    (c.validate = .good →
      ∃ bytes : List Byte, bytes.length = c.cursor ∧ (∀ i < c.cursor, c.buf.read i = bytes[i]?) ∧
        exec (.ctickValidating ch now) s = .next
          { s with
            channels := s.channels.set ch.toNat
              (if 0 < c.cfg.throttle then
                { c with resume := tadd s.params now c.cfg.throttle, state := .throttled }
              else { c with cursor := 0, buf := [], state := .idle })
            out := s.out ++ [.decode ch.toNat c.cursor bytes] }) ∧
    ((∃ err, c.validate = .bad err) ∨ c.validate = .good)

/-- R114: `CTICK` in `Delivering`: the whole buffer goes to the Decoder once, without validation. -/
def Obligations.TickInDelivering : Prop :=
  ∀ (s : State) (ch : ChField) (now : Nat) (c : Channel), configWf s.config = true →
    s.channels[ch.toNat]? = some c → c.state = .delivering → c.buf.map Prod.fst = List.range c.cursor →
    ∃ bytes : List Byte, bytes.length = c.cursor ∧ (∀ i < c.cursor, c.buf.read i = bytes[i]?) ∧
      exec (.ctickDelivering ch now) s = .next
        { s with
          channels := s.channels.set ch.toNat
            (if 0 < c.cfg.throttle then
              { c with resume := tadd s.params now c.cfg.throttle, state := .throttled }
            else { c with cursor := 0, buf := [], state := .idle })
          out := s.out ++ [.decode ch.toNat c.cursor bytes] }

/-- R115: `CTICK` in `Throttled`. -/
def Obligations.TickInThrottled : Prop :=
  ∀ (s : State) (ch : ChField) (now : Nat) (c : Channel), configWf s.config = true →
    s.channels[ch.toNat]? = some c → c.state = .throttled →
    exec (.ctickThrottled ch now) s = .next
      (if reached s.params now c.resume then
        { s with channels := s.channels.set ch.toNat { c with cursor := 0, buf := [], state := .idle } }
      else s)

/-- What every Channel row leaves alone: the scheduler, the slave records, the inputs, every other channel, the
configuration. On the channel itself `resume` is written by a delivery that throttles only (R29, R113, R114); the
cursor and every byte are kept, or a burst that fits was accepted and lies at `cursor ..`, every other byte as
before (R106, R107), or the buffer was discarded by an overflow or a tick (R116). At most one event follows the
earlier ones. -/
def Obligations.ChannelRowsFrame : Prop :=
  ∀ (s t : State) (i : Instr) (op : Op) (k : Nat), i.toOp = some op → op.unit = .channel k →
    exec i s = .next t →
    t.params = s.params ∧ t.slaves = s.slaves ∧ t.ps = s.ps ∧ t.inbox = s.inbox ∧ t.resets = s.resets ∧
    t.channels.length = s.channels.length ∧ (∀ j, j ≠ k → t.channels[j]? = s.channels[j]?) ∧
    (∃ es, t.out = s.out ++ es ∧ es.length ≤ 1) ∧
    ∀ c d, s.channels[k]? = some c → t.channels[k]? = some d →
      d.cfg = c.cfg ∧
      (d.resume = c.resume ∨
        ∃ ch now, op = .ctick ch now ∧ (c.state = .validating ∨ c.state = .delivering) ∧
          d.state = .throttled ∧ d.resume = tadd s.params now c.cfg.throttle) ∧
      ((d.cursor = c.cursor ∧ ∀ a, d.buf.read a = c.buf.read a) ∨
        (∃ ch data, op = .push ch data ∧ data.length ≠ 0 ∧ (c.state = .idle ∨ c.state = .collecting) ∧
          c.cursor + data.length ≤ c.cfg.cap ∧ d.state = .collecting ∧ d.cursor = c.cursor + data.length ∧
          ∀ a, d.buf.read a =
            if c.cursor ≤ a ∧ a < c.cursor + data.length then data[a - c.cursor]? else c.buf.read a) ∨
        (d.state = .idle ∧ d.cursor = 0 ∧ (∀ a, d.buf.read a = none) ∧
          ((∃ ch data, op = .push ch data ∧ (c.state = .idle ∨ c.state = .collecting) ∧
              c.cfg.cap < c.cursor + data.length) ∨
            ∃ ch now, op = .ctick ch now ∧
              (c.state = .validating ∨ c.state = .delivering ∨ c.state = .throttled))))

/-- R66, R70: bursts are laid end to end, and where the cuts fall is not remembered: two bursts that fit leave what
their concatenation leaves. -/
def Obligations.BurstBoundariesDoNotMatter : Prop :=
  ∀ (s : State) (ch : ChField) (a b : List Byte) (c : Channel), s.channels[ch.toNat]? = some c →
    c.state = .idle ∨ c.state = .collecting → c.cursor + (a.length + b.length) ≤ c.cfg.cap →
    applyAll s [.push ch a, .push ch b] = applyAll s [.push ch (a ++ b)]

/-- The source's round-trip property (95_test_vectors.md S2; R106, R109, R113, R114): a frame that fits, pushed into an
idle channel and ended, is delivered whole and once by the next tick, and a second immediate tick delivers
nothing. -/
def Obligations.FrameRoundTrip : Prop :=
  ∀ (s : State) (ch : ChField) (c : Channel) (payload suffix : List Byte) (now : Nat),
    configWf s.config = true → s.channels[ch.toNat]? = some c → c.state = .idle → c.cursor = 0 → c.buf = [] →
    suffix.length = c.cfg.trailer - c.cfg.em.length →
    (c.cfg.sm ++ payload ++ c.cfg.em ++ suffix).length ≤ c.cfg.cap →
    ∃ t u d, applyAll s [.push ch (c.cfg.sm ++ payload ++ c.cfg.em ++ suffix), .eob ch, .ctick ch now] = .next t ∧
      t.out = s.out ++ [.decode ch.toNat (c.cfg.sm ++ payload ++ c.cfg.em ++ suffix).length
        (c.cfg.sm ++ payload ++ c.cfg.em ++ suffix)] ∧
      t.channels[ch.toNat]? = some d ∧ d.state = (if 0 < c.cfg.throttle then .throttled else .idle) ∧
      applyOp t (.ctick ch now) = .next u ∧ u.out = t.out

/-- The source's negative case (95_test_vectors.md S3; R112, R113, R183): an ended buffer that is long enough and does not
begin with the start marker is logged as such, is not delivered, and leaves the channel idle and empty. -/
def Obligations.WrongStartMarkerIsDiscarded : Prop :=
  ∀ (s : State) (ch : ChField) (c : Channel) (now i : Nat), configWf s.config = true →
    s.channels[ch.toNat]? = some c → c.state = .validating → c.buf.map Prod.fst = List.range c.cursor →
    c.cfg.sm.length + c.cfg.trailer ≤ c.cursor → i < c.cfg.sm.length → c.buf.read i ≠ c.cfg.sm[i]? →
    ∃ t, applyOp s (.ctick ch now) = .next t ∧ t.out = s.out ++ [.log ch.toNat .startMarkerMismatch] ∧
      t.channels[ch.toNat]? = some { c with cursor := 0, buf := [], state := .idle }

/-- The source's throttle law (95_test_vectors.md S4; R108, R115, R12): after a delivery at `t0`, bursts are dropped and
ticks do nothing while less than the throttle interval has elapsed; the first tick from there on, within the
horizon of R209, returns the channel to `Idle`. -/
def Obligations.ThrottleLaw : Prop :=
  ∀ (s : State) (ch : ChField) (c : Channel) (t0 now : Nat) (data : List Byte), configWf s.config = true →
    s.channels[ch.toNat]? = some c → c.state = .throttled → c.resume = tadd s.params t0 c.cfg.throttle →
    exec (.pushThrottled ch data) s = .next s ∧
    (elapsed s.params now t0 < c.cfg.throttle → exec (.ctickThrottled ch now) s = .next s) ∧
    (c.cfg.throttle ≤ elapsed s.params now t0 →
      2 * (elapsed s.params now t0 - c.cfg.throttle) < 2 ^ s.params.timeW →
      exec (.ctickThrottled ch now) s = .next
        { s with channels := s.channels.set ch.toNat { c with cursor := 0, buf := [], state := .idle } })

/-! ### The STICK rows (41_pollscheduler.md) -/

/-- R127: `STICK` in `Idle`, identity branch: one query, to the lowest-index enabled slave without identity. -/
def Obligations.IdentityBranch : Prop :=
  ∀ (s : State) (now : Nat) (id : IdRsp) (bus : BusRsp) (u : Nat) (r : Slave), configWf s.config = true →
    s.ps.state = .idle → s.slaves[u]? = some r → 0 < r.cfg.interval → r.idValid = false →
    (∀ j < u, ∀ x, s.slaves[j]? = some x → x.cfg.interval = 0 ∨ x.idValid = true) →
    exec (.stickIdleIdentity now id bus) s = .next
      { s with
        slaves :=
          if id.valid then s.slaves.set u { r with idVal := id.val, idValid := true, idFresh := true } else s.slaves
        out := s.out ++ [.requestIdentity r.cfg.addr] }

/-- R128: `STICK` in `Idle`, selection branch: the lowest-index due slave, or nothing. -/
def Obligations.SelectionBranch : Prop :=
  ∀ (s : State) (now : Nat) (id : IdRsp) (bus : BusRsp), configWf s.config = true → s.ps.state = .idle →
    (∀ x ∈ s.slaves, x.cfg.interval = 0 ∨ x.idValid = true) →
    (∀ d r, s.slaves[d]? = some r → 0 < r.cfg.interval → r.cfg.interval ≤ elapsed s.params now r.lastPoll →
      (∀ j < d, ∀ x, s.slaves[j]? = some x → x.cfg.interval = 0 ∨ elapsed s.params now x.lastPoll < x.cfg.interval) →
      exec (.stickIdleSelect now id bus) s = .next
        { s with
          slaves := s.slaves.set d { r with lastPoll := now }
          ps := { s.ps with curSlave := d, curBlock := 0, tainted := false, state := .prepareTransmit } }) ∧
    ((∀ x ∈ s.slaves, x.cfg.interval = 0 ∨ elapsed s.params now x.lastPoll < x.cfg.interval) →
      exec (.stickIdleSelect now id bus) s = .next s)

/-- R129: `STICK` in `PrepareTransmit`. -/
def Obligations.TickInPrepareTransmit : Prop :=
  ∀ (s : State) (now : Nat) (id : IdRsp) (bus : BusRsp), configWf s.config = true → s.ps.state = .prepareTransmit →
    exec (.stickPrepareTransmit now id bus) s = .next
      { s with
        ps := { s.ps with txen := true, deadline := tadd s.params now s.params.tSettle, state := .transmitting }
        out := s.out ++ [.enableTx] }

/-- R130: `STICK` in `Transmitting`. -/
def Obligations.TickInTransmitting : Prop :=
  ∀ (s : State) (now : Nat) (id : IdRsp) (bus : BusRsp) (r : Slave) (b : Block), configWf s.config = true →
    s.ps.state = .transmitting → s.slaves[s.ps.curSlave]? = some r → r.cfg.blocks[s.ps.curBlock]? = some b →
    exec (.stickTransmitting now id bus) s = .next
      (if reached s.params now s.ps.deadline then
        { s with
          ps := { s.ps with
            txen := false, deadline := tadd s.params now s.params.tResponse, state := .awaitingResponse }
          out := s.out ++ [.sendRequest r.cfg.addr b.start b.count, .disableTx] }
      else s)

/-- R131: `STICK` in `AwaitingResponse`, a complete response, whatever the deadline (R184). -/
def Obligations.CompleteResponseIsLatched : Prop :=
  ∀ (s : State) (now : Nat) (id : IdRsp) (bus : BusRsp), configWf s.config = true →
    s.ps.state = .awaitingResponse → bus.complete = true →
    exec (.stickAwaitingComplete now id bus) s =
      .next { s with ps := { s.ps with rsp := bus.data, state := .decoding } } ∧
    selectRow s (.stick now id bus) = .ok (.stickAwaitingComplete now id bus)

/-- R132: `STICK` in `AwaitingResponse`, the deadline reached without a complete response. -/
def Obligations.ResponseTimeout : Prop :=
  ∀ (s : State) (now : Nat) (id : IdRsp) (bus : BusRsp) (r : Slave), configWf s.config = true →
    s.ps.state = .awaitingResponse → bus.complete = false → reached s.params now s.ps.deadline = true →
    s.slaves[s.ps.curSlave]? = some r →
    exec (.stickAwaitingTimeout now id bus) s = .next
      { s with
        slaves := s.slaves.set s.ps.curSlave
          { r with
            errCnt := (r.errCnt + 1) % 2 ^ s.params.cntW
            lastErr :=
              if bus.avail.toNat < s.params.minFrame then 0xE4 else if bus.err = 0x00 then 0xE2 else bus.err }
        ps := { s.ps with tainted := true, state := .publishing } }

/-- R133: `STICK` in `AwaitingResponse`, still waiting. -/
def Obligations.WaitingForTheResponse : Prop :=
  ∀ (s : State) (now : Nat) (id : IdRsp) (bus : BusRsp), configWf s.config = true →
    s.ps.state = .awaitingResponse → bus.complete = false → reached s.params now s.ps.deadline = false →
    exec (.stickAwaitingWait now id bus) s = .next s

/-- R135: `STICK` in `Decoding`: whatever the uninterpreted `BusDecode` answers, its values go to `start ..` of the scratch
map and a success is counted, or its code is the polling error. That there are exactly `count` values of `VAL_W`
bits, or a nonzero code, is the contract of 43_interfaces.md R166, which the model keeps by a cut of its own (log 11). -/
def Obligations.TickInDecoding : Prop :=
  ∀ (s : State) (now : Nat) (id : IdRsp) (bus : BusRsp) (r : Slave) (b : Block), configWf s.config = true →
    s.ps.state = .decoding → s.slaves[s.ps.curSlave]? = some r → r.cfg.blocks[s.ps.curBlock]? = some b →
    match busDecode s.params r.cfg.addr b.start b.count s.ps.rsp with
    | .ok vs =>
      vs.length = b.count ∧ (∀ v ∈ vs, v < 2 ^ s.params.valW) ∧
      ∃ m : ScratchMap,
        (∀ a, m.lookup a =
          if b.start ≤ a ∧ a < b.start + b.count then vs[a - b.start]? else s.ps.map.lookup a) ∧
        exec (.stickDecoding now id bus) s = .next
          { s with
            slaves := s.slaves.set s.ps.curSlave { r with succCnt := (r.succCnt + 1) % 2 ^ s.params.cntW }
            ps := { s.ps with map := m, rsp := [], state := .advanceBlock } }
    | .err code =>
      code ≠ 0x00 ∧
      exec (.stickDecoding now id bus) s = .next
        { s with
          slaves := s.slaves.set s.ps.curSlave
            { r with errCnt := (r.errCnt + 1) % 2 ^ s.params.cntW, lastErr := code }
          ps := { s.ps with tainted := true, rsp := [], state := .publishing } }

/-- R136: `STICK` in `AdvanceBlock`. -/
def Obligations.TickInAdvanceBlock : Prop :=
  ∀ (s : State) (now : Nat) (id : IdRsp) (bus : BusRsp) (r : Slave), configWf s.config = true →
    s.ps.state = .advanceBlock → s.slaves[s.ps.curSlave]? = some r →
    exec (.stickAdvanceBlock now id bus) s = .next
      { s with
        ps :=
          if s.ps.curBlock + 1 < r.cfg.blocks.length then
            { s.ps with curBlock := s.ps.curBlock + 1, state := .prepareTransmit }
          else { s.ps with state := .publishing } }

/-- R137: `STICK` in `Publishing`: the first of the four steps that applies. -/
def Obligations.TickInPublishing : Prop :=
  ∀ (s : State) (now : Nat) (id : IdRsp) (bus : BusRsp) (r : Slave), configWf s.config = true →
    s.ps.state = .publishing → s.slaves[s.ps.curSlave]? = some r → s.ps.map.wf = true →
    (s.ps.tainted = true →
      exec (.stickPublishing now id bus) s = .next
        { s with
          ps := { s.ps with map := [], tainted := false }
          out := s.out ++ [.publishError s.ps.curSlave r.lastErr r.errCnt r.succCnt] }) ∧
    (s.ps.tainted = false → ∀ a v, s.ps.map.lookup a = some v →
      (∀ b, (s.ps.map.lookup b).isSome = true → a ≤ b) →
      ∃ m : ScratchMap, (∀ b, m.lookup b = if b = a then none else s.ps.map.lookup b) ∧
        exec (.stickPublishing now id bus) s = .next
          { s with ps := { s.ps with map := m }, out := s.out ++ [.publish s.ps.curSlave a v] }) ∧
    (s.ps.tainted = false → (∀ b, s.ps.map.lookup b = none) → r.idFresh = true →
      exec (.stickPublishing now id bus) s = .next
        { s with
          slaves := s.slaves.set s.ps.curSlave { r with idFresh := false }
          out := s.out ++ [.publishIdentity s.ps.curSlave r.idVal] }) ∧
    (s.ps.tainted = false → (∀ b, s.ps.map.lookup b = none) → r.idFresh = false →
      exec (.stickPublishing now id bus) s = .next
        { s with
          ps := { s.ps with curSlave := 0, curBlock := 0, tainted := false, rsp := [], state := .idle } })

/-- What every `STICK` row leaves alone: the channels, the inputs, the configuration; every slave record but one, which
is the polled one while a cycle is active, in `Idle` the queried one (R127) or the selected one (R128); a discovered
identity is kept; `last_poll` moves only by the selection; `txen` and the deadline only in `PrepareTransmit` and
`Transmitting`; of the scratch map, in `Decoding` the addresses of the block read (R135), in `Publishing` all of it
where the cycle is tainted and else the least entry (R137), and nothing in any other state; each of the other cycle
registers only in the states whose rules write it. -/
def Obligations.SchedulerRowsFrame : Prop :=
  ∀ (s t : State) (i : Instr) (now : Nat) (id : IdRsp) (bus : BusRsp), i.toOp = some (.stick now id bus) →
    exec i s = .next t →
    (t.params = s.params ∧ t.channels = s.channels ∧ t.inbox = s.inbox ∧ t.resets = s.resets ∧
      t.slaves.length = s.slaves.length) ∧
    -- which slave record may change
    (s.ps.state ≠ .idle → ∀ j, j ≠ s.ps.curSlave → t.slaves[j]? = s.slaves[j]?) ∧
    (s.ps.state = .idle → ∀ u r, s.leastUndiscovered = some (u, r) →
      t.ps = s.ps ∧ ∀ j, j ≠ u → t.slaves[j]? = s.slaves[j]?) ∧
    (s.ps.state = .idle → s.leastUndiscovered = none → ∀ d r, s.leastDue now = some (d, r) →
      ∀ j, j ≠ d → t.slaves[j]? = s.slaves[j]?) ∧
    (s.ps.state = .idle → s.leastUndiscovered = none → s.leastDue now = none → t.slaves = s.slaves ∧ t.ps = s.ps) ∧
    -- which of its fields
    (∀ (j : Nat) r q, s.slaves[j]? = some r → t.slaves[j]? = some q →
      q.cfg = r.cfg ∧ (r.idValid = true → q.idValid = true ∧ q.idVal = r.idVal) ∧
      (s.ps.state ≠ .idle → q.lastPoll = r.lastPoll ∧ q.idValid = r.idValid ∧ q.idVal = r.idVal) ∧
      (s.ps.state = .idle → s.leastUndiscovered ≠ none → q.lastPoll = r.lastPoll) ∧
      (s.ps.state = .idle → s.leastUndiscovered = none →
        q.idValid = r.idValid ∧ q.idVal = r.idVal ∧ q.idFresh = r.idFresh) ∧
      (s.ps.state ≠ .idle → s.ps.state ≠ .publishing → q.idFresh = r.idFresh) ∧
      (s.ps.state ≠ .publishing → r.idFresh = true → q.idFresh = true)) ∧
    -- which scheduler registers
    (s.ps.state ≠ .prepareTransmit → s.ps.state ≠ .transmitting →
      t.ps.txen = s.ps.txen ∧ t.ps.deadline = s.ps.deadline) ∧
    (s.ps.state ≠ .idle → s.ps.state ≠ .publishing → t.ps.curSlave = s.ps.curSlave) ∧
    (s.ps.state ≠ .idle → s.ps.state ≠ .advanceBlock → s.ps.state ≠ .publishing → t.ps.curBlock = s.ps.curBlock) ∧
    (s.ps.state ≠ .idle → s.ps.state ≠ .awaitingResponse → s.ps.state ≠ .decoding → s.ps.state ≠ .publishing →
      t.ps.tainted = s.ps.tainted) ∧
    (s.ps.state ≠ .awaitingResponse → s.ps.state ≠ .decoding → s.ps.state ≠ .publishing → t.ps.rsp = s.ps.rsp) ∧
    -- which entries of the scratch map
    (s.ps.state ≠ .decoding → s.ps.state ≠ .publishing → t.ps.map = s.ps.map) ∧
    (s.ps.state = .decoding → ∀ r b, s.slaves[s.ps.curSlave]? = some r → r.cfg.blocks[s.ps.curBlock]? = some b →
      ∀ a, ¬(b.start ≤ a ∧ a < b.start + b.count) → t.ps.map.lookup a = s.ps.map.lookup a) ∧
    (s.ps.state = .publishing → s.ps.tainted = true → ∀ a, t.ps.map.lookup a = none) ∧
    (s.ps.state = .publishing → s.ps.tainted = false → ∀ a, (∀ v, s.ps.map.least ≠ some (a, v)) →
      t.ps.map.lookup a = s.ps.map.lookup a)

/-- R140: the counters of every slave under every `STICK`: each moves by one only, never both, `succ_cnt` only in
`Decoding`, `err_cnt` only with `last_err` and only on the way to `Publishing`. -/
def Obligations.CounterLaws : Prop :=
  ∀ (s t : State) (i : Instr) (now : Nat) (id : IdRsp) (bus : BusRsp), i.toOp = some (.stick now id bus) →
    exec i s = .next t → ∀ (j : Nat) r q, s.slaves[j]? = some r → t.slaves[j]? = some q →
    (q.succCnt = r.succCnt ∧ q.errCnt = r.errCnt ∧ q.lastErr = r.lastErr) ∨
    (q.succCnt = (r.succCnt + 1) % 2 ^ s.params.cntW ∧ q.errCnt = r.errCnt ∧ q.lastErr = r.lastErr ∧
      s.ps.state = .decoding ∧ t.ps.state = .advanceBlock ∧ j = s.ps.curSlave) ∨
    (q.succCnt = r.succCnt ∧ q.errCnt = (r.errCnt + 1) % 2 ^ s.params.cntW ∧ q.lastErr ≠ 0x00 ∧
      (s.ps.state = .awaitingResponse ∨ s.ps.state = .decoding) ∧ t.ps.state = .publishing ∧
      t.ps.tainted = true ∧ j = s.ps.curSlave)

/-- R142: at most one publish event a tick, and two events only in the sending tick. -/
def Obligations.OneSideEffectPerTick : Prop :=
  ∀ (s t : State) (i : Instr) (now : Nat) (id : IdRsp) (bus : BusRsp), i.toOp = some (.stick now id bus) →
    exec i s = .next t →
    ∃ es, t.out = s.out ++ es ∧ (es.filter Event.isPublish).length ≤ 1 ∧
      (2 ≤ es.length → s.ps.state = .transmitting ∧ ∃ a b n, es = [.sendRequest a b n, .disableTx])

/-- The source's timeout property (95_test_vectors.md S6; R132, R137, R141): after a timeout tick the slave's error counter
has risen by one, its success counter has not moved, and at most three further ticks, whatever their operands,
bring the scheduler to `Idle`. -/
def Obligations.TimeoutReturnsToIdle : Prop :=
  ∀ (s : State) (r : Slave) (now : Nat) (id : IdRsp) (bus : BusRsp) (later : List Op), s.Inv →
    s.ps.state = .awaitingResponse → s.slaves[s.ps.curSlave]? = some r →
    bus.complete = false → reached s.params now s.ps.deadline = true →
    later.length = 3 → (∀ op ∈ later, ∃ n i b, op = .stick n i b) →
    ∃ t k u, applyOp s (.stick now id bus) = .next t ∧ k ≤ 3 ∧ applyAll t (later.take k) = .next u ∧
      u.ps.state = .idle ∧
      ∃ q, u.slaves[s.ps.curSlave]? = some q ∧ q.errCnt = (r.errCnt + 1) % 2 ^ s.params.cntW ∧
        q.succCnt = r.succCnt ∧ (bus.avail.toNat < s.params.minFrame → q.lastErr = 0xE4)

/-- R211: while the lowest-index undiscovered slave does not answer, any number of ticks only repeat its query;
no slave is polled, however overdue. -/
def Obligations.IdentityStarvation : Prop :=
  ∀ (s : State) (u : Nat) (r : Slave) (ticks : List Op), configWf s.config = true → s.ps.state = .idle →
    s.slaves[u]? = some r → 0 < r.cfg.interval → r.idValid = false →
    (∀ j < u, ∀ x, s.slaves[j]? = some x → x.cfg.interval = 0 ∨ x.idValid = true) →
    (∀ op ∈ ticks, ∃ n i b, op = .stick n i b ∧ i.valid = false) →
    applyAll s ticks =
      .next { s with out := s.out ++ List.replicate ticks.length (.requestIdentity r.cfg.addr) }

/-- R166: the contract of `BusDecode`: exactly `count` values of `VAL_W` bits, or a nonzero code. -/
def Obligations.BusDecodeContract : Prop :=
  ∀ (p : Params) (addr start count : Nat) (rsp : List Byte),
    match busDecode p addr start count rsp with
    | .ok vs => vs.length = count ∧ ∀ v ∈ vs, v < 2 ^ p.valW
    | .err code => code ≠ 0x00

/-! ### Reset and the pseudo-operations -/

/-- R205: reset sets every register to its reset value, keeps the configuration and emits nothing. -/
def Obligations.ResetSetsEveryRegister : Prop :=
  ∀ s : State, configWf s.config = true →
    ∃ t, exec .reset s = .next t ∧ t.config = s.config ∧ t.out = s.out ∧ t.inbox = s.inbox ∧
      (∀ c ∈ t.channels, c.state = .idle ∧ c.cursor = 0 ∧ ∀ a, c.buf.read a = none) ∧
      (∀ r ∈ t.slaves, r.lastPoll = 0 ∧ r.idValid = false ∧ r.idFresh = false ∧ r.succCnt = 0 ∧ r.errCnt = 0 ∧
        r.lastErr = 0x00) ∧
      t.ps.state = .idle ∧ t.ps.curSlave = 0 ∧ t.ps.curBlock = 0 ∧ (∀ a, t.ps.map.lookup a = none) ∧
      t.ps.tainted = false ∧ t.ps.rsp = [] ∧ t.ps.txen = false

/-- R100 (b), R150: `loop` presents `CTICK` for every channel in increasing index, then `STICK`, all with one clock
sample, before what is waiting. That the expansion is presented rather than run at once is the model's
reading (log 7). -/
def Obligations.LoopPresentsOneIteration : Prop :=
  ∀ (s : State) (now : Nat) (id : IdRsp) (bus : BusRsp), configWf s.config = true →
    exec (.loop now id bus) s = .next
      { s with
        inbox :=
          (List.range s.channels.length).map (fun c => .bits (encodeOp s.params (.ctick (BitVec.ofNat 8 c) now))) ++
          [.bits (encodeOp s.params (.stick now id bus))] ++ s.inbox }

/-- R150, R152: an iteration always completes, in `NCH + 1` operations, and its effect is that of its operations
applied in order. -/
def Obligations.IterationCompletes : Prop :=
  ∀ (s : State) (now : Nat) (id : IdRsp) (bus : BusRsp), s.Inv → stickWf s.params now id bus = true →
    ∃ t u, exec (.loop now id bus) s = .next t ∧
      Host.Core.run Sys2Proof.core (s.channels.length + 1) t = .next u ∧
      applyAll s (s.iteration now id bus) = .next u

/-- R100 (c): `frame` presents the push of the whole frame and the end of the burst; a suffix of the wrong length and a
frame that no `PUSH` can carry are refused by name (log 23). -/
def Obligations.FramePresentsItsExpansion : Prop :=
  ∀ (s : State) (ch : ChField) (payload suffix : List Byte) (c : Channel), configWf s.config = true →
    s.channels[ch.toNat]? = some c →
    (suffix.length = c.cfg.trailer - c.cfg.em.length →
      (c.cfg.sm ++ payload ++ c.cfg.em ++ suffix).length < 2 ^ 16 →
      exec (.frame ch payload suffix) s = .next
        { s with
          inbox :=
            [.bits (encodeOp s.params (.push ch (c.cfg.sm ++ payload ++ c.cfg.em ++ suffix))),
              .bits (encodeOp s.params (.eob ch))] ++ s.inbox }) ∧
    (suffix.length ≠ c.cfg.trailer - c.cfg.em.length →
      exec (.frame ch payload suffix) s = .refused .frameSuffixLength) ∧
    (suffix.length = c.cfg.trailer - c.cfg.em.length →
      2 ^ 16 ≤ (c.cfg.sm ++ payload ++ c.cfg.em ++ suffix).length →
      exec (.frame ch payload suffix) s = .refused .burstTooLong)

/-! ### The whole machine -/

/-- 10_state.md R30, R48 and the widths of R26 to R47: what every step keeps, from every state that has it. -/
def Obligations.InvariantIsKept : Prop :=
  ∀ s t : State, s.Inv → step s = .next t → t.Inv

/-- The state after reset satisfies the invariant. Its configuration is the model's choice (log 2). -/
def Obligations.InvariantHoldsAtReset : Prop := State.reset.Inv

/-- R205 at `State.reset`: the values of the table "Reset values at a glance". The configuration is the model's choice
(log 2). -/
def Obligations.ResetStateHoldsTheStatedValues : Prop :=
  State.reset.config = Config.atReset ∧
  State.reset.channels.map (fun c => (c.state, c.cursor, c.buf)) = [(.idle, 0, [])] ∧
  State.reset.slaves.map (fun r => (r.lastPoll, r.idValid, r.idFresh, r.succCnt, r.errCnt, r.lastErr)) =
    [(0, false, false, 0, 0, 0x00), (0, false, false, 0, 0, 0x00)] ∧
  State.reset.ps.state = .idle ∧ State.reset.ps.curSlave = 0 ∧ State.reset.ps.curBlock = 0 ∧
  State.reset.ps.map = [] ∧ State.reset.ps.tainted = false ∧ State.reset.ps.rsp = [] ∧
  State.reset.ps.txen = false ∧ State.reset.out = [] ∧ State.reset.inbox = []

/-- R189: totality: in every state that has the invariant, every legal operation has a next state: ACQ never faults,
never halts and has no stuck state. -/
def Obligations.EveryLegalOperationCompletes : Prop :=
  ∀ (s : State) (op : Op), s.Inv → op.legal s → ∃ t, applyOp s op = .next t

/-- R189, R69: the faults of the model are never met, and no selected row is refused for its key. -/
def Obligations.NoStepFaults : Prop :=
  (∀ (s : State) (f : Fault), s.Inv → step s ≠ .fault f) ∧ (∀ s : State, step s ≠ .refused .keyMismatch)

/-- R98, R76 (c): a step only appends events to those emitted before, and their fields fit the widths of R98. -/
def Obligations.EventsFitTheirFields : Prop :=
  ∀ s t : State, s.Inv → step s = .next t →
    ∃ es, t.out = s.out ++ es ∧ ∀ e ∈ es, e.wf s.params = true

/-- R72, R76 (d): operations on different units commute as far as state goes. -/
def Obligations.DifferentUnitsCommute : Prop :=
  ∀ (s t u : State) (a b : Op), a.unit ≠ b.unit → applyOp s a = .next t → applyOp t b = .next u →
    ∃ t' u', applyOp s b = .next t' ∧ applyOp t' a = .next u' ∧ u'.withoutEvents = u.withoutEvents

/-- R25, R194: what an operation on a channel does to it and emits depends on that channel's own record (its configuration
among it) and the widths, on nothing else of the machine. -/
def Obligations.ChannelsAreIsolated : Prop :=
  ∀ (s s' t t' : State) (op : Op) (k : Nat), op.unit = .channel k → s.params = s'.params →
    s.channels[k]? = s'.channels[k]? → applyOp s op = .next t → applyOp s' op = .next t' →
    t.channels[k]? = t'.channels[k]? ∧ ∃ es, t.out = s.out ++ es ∧ t'.out = s'.out ++ es

/-- R175, R194: what a `STICK` does to the scheduler and the slaves and emits does not depend on the channels. -/
def Obligations.SchedulerIsIsolated : Prop :=
  ∀ (s s' t t' : State) (now : Nat) (id : IdRsp) (bus : BusRsp), s.params = s'.params → s.slaves = s'.slaves →
    s.ps = s'.ps → applyOp s (.stick now id bus) = .next t → applyOp s' (.stick now id bus) = .next t' →
    t.slaves = t'.slaves ∧ t.ps = t'.ps ∧ ∃ es, t.out = s.out ++ es ∧ t'.out = s'.out ++ es
end

