-- ==== Sys2Proof/Laws/Bits.lean ====
section
/-! SUPPORT. Writing a field and reading it back, in both directions. -/

namespace Sys2Proof

@[simp] theorem fieldBits_length (w v : Nat) : (fieldBits w v).length = w := by
  induction w generalizing v with
  | zero => rfl
  | succ w ih => simp [fieldBits, ih]

/-- Reading a written field gives the number modulo the width. -/
theorem takeField_fieldBits (w v : Nat) (rest : List Bool) :
    takeField w (fieldBits w v ++ rest) = some (v % 2 ^ w, rest) := by
  induction w generalizing v with
  | zero => simp [fieldBits, takeField, Nat.mod_one]
  | succ w ih =>
    simp only [fieldBits, List.cons_append, takeField, ih]
    have h : v % 2 ^ (w + 1) = 2 * (v / 2 % 2 ^ w) + v % 2 := by
      rw [Nat.pow_succ, Nat.mul_comm (2 ^ w) 2, Nat.mod_mul]; omega
    rcases Nat.mod_two_eq_zero_or_one v with h2 | h2 <;> simp [h, h2]

theorem takeField_fieldBits_lt (w v : Nat) (rest : List Bool) (h : v < 2 ^ w) :
    takeField w (fieldBits w v ++ rest) = some (v, rest) := by
  rw [takeField_fieldBits, Nat.mod_eq_of_lt h]

/-- A field that was read is a number of its width, and writing it gives the bits back. -/
theorem takeField_eq_some (w v : Nat) (bs rest : List Bool) :
    takeField w bs = some (v, rest) ↔ v < 2 ^ w ∧ bs = fieldBits w v ++ rest := by
  constructor
  · intro h
    induction w generalizing bs v rest with
    | zero => simp [takeField] at h; simp [fieldBits, ← h.1, h.2]
    | succ w ih =>
      cases bs with
      | nil => simp [takeField] at h
      | cons b bs =>
        simp only [takeField] at h
        split at h
        · cases h
        · rename_i u r hu
          obtain ⟨h1, h2⟩ := ih u bs r hu
          simp only [Option.some.injEq, Prod.mk.injEq] at h
          obtain ⟨rfl, rfl⟩ := h
          refine ⟨by rw [Nat.pow_succ]; split <;> omega, ?_⟩
          subst h2
          cases b <;> simp [fieldBits]
          all_goals (try congr 1); omega
  · rintro ⟨h1, rfl⟩
    exact takeField_fieldBits_lt w v rest h1

/-- Reading back a written byte string. -/
theorem takeBytes_byteBits (d : List Byte) (rest : List Bool) :
    takeBytes d.length (byteBits d ++ rest) = some (d, rest) := by
  induction d with
  | nil => rfl
  | cons b d ih =>
    simp only [List.length_cons, byteBits, List.append_assoc, takeBytes]
    rw [takeField_fieldBits_lt 8 b.toNat _ b.isLt]
    simp [ih]

/-- A byte string that was read has the asked length, and writing it gives the bits back. -/
theorem takeBytes_eq_some (n : Nat) (bs rest : List Bool) (d : List Byte) :
    takeBytes n bs = some (d, rest) ↔ d.length = n ∧ bs = byteBits d ++ rest := by
  constructor
  · intro h
    induction n generalizing bs d with
    | zero => simp [takeBytes] at h; simp [byteBits, h.1, h.2]
    | succ n ih =>
      simp only [takeBytes] at h
      split at h
      · cases h
      · rename_i b r hb
        split at h
        · cases h
        · rename_i ds r' hds
          simp only [Option.some.injEq, Prod.mk.injEq] at h
          obtain ⟨rfl, rfl⟩ := h
          obtain ⟨hl, rfl⟩ := ih _ _ hds
          obtain ⟨hlt, rfl⟩ := (takeField_eq_some 8 b bs _).mp hb
          refine ⟨by simp [hl], ?_⟩
          have : b % 256 = b := Nat.mod_eq_of_lt hlt
          simp [byteBits, this]
  · rintro ⟨rfl, rfl⟩
    exact takeBytes_byteBits d rest

end Sys2Proof
end

