-- ==== Sys2Proof/Laws/Cells.lean ====
section
/-! SUPPORT. The laws of the one canonical form of both memories: what a read gives after each operation, and that
each operation keeps the form. -/

namespace Sys2Proof.Machine

open Sys2Proof

variable {α : Type}

/-! ### Reading after writing -/

/-- A read after a write: the value written there, and what was there before elsewhere. -/
theorem cellsGet_put (a b : Nat) (v : α) (m : List (Nat × α)) :
    cellsGet b (cellsPut a v m) = if b = a then some v else cellsGet b m := by
  induction m with
  | nil => simp [cellsPut, cellsGet, eq_comm]
  | cons x rest ih =>
    obtain ⟨k, w⟩ := x
    simp only [cellsPut]
    split
    · simp [cellsGet, eq_comm (a := a)]
    · split
      · subst k
        by_cases h : b = a
        · simp [cellsGet, h]
        · simp [cellsGet, h, Ne.symm h]
      · rename_i hk
        simp only [cellsGet, ih]
        by_cases hb : k = b
        · have : b ≠ a := fun h => hk (hb.trans h)
          simp [hb, this]
        · simp [hb]

/-- A read after a run of writes. -/
theorem cellsGet_putAll (vs : List α) (off b : Nat) (m : List (Nat × α)) :
    cellsGet b (cellsPutAll off vs m) =
      if off ≤ b ∧ b < off + vs.length then vs[b - off]? else cellsGet b m := by
  induction vs generalizing off m with
  | nil => simp [cellsPutAll]
  | cons v vs ih =>
    simp only [cellsPutAll, ih, cellsGet_put, List.length_cons]
    by_cases h0 : b = off
    · subst h0; simp
    · by_cases h1 : off + 1 ≤ b ∧ b < off + 1 + vs.length
      · have h2 : off ≤ b ∧ b < off + (vs.length + 1) := by omega
        have h3 : b - off = (b - (off + 1)) + 1 := by omega
        rw [if_pos h1, if_pos h2, h3, List.getElem?_cons_succ]
      · have h2 : ¬(off ≤ b ∧ b < off + (vs.length + 1)) := by omega
        rw [if_neg h1, if_neg h2, if_neg h0]

/-- A window read gives exactly the bytes read one by one. -/
theorem cellsRead_eq_some (off n : Nat) (m : List (Nat × α)) (d : List α) :
    cellsRead off n m = some d ↔ d.length = n ∧ ∀ i < n, cellsGet (off + i) m = d[i]? := by
  induction n generalizing off d with
  | zero => cases d <;> simp [cellsRead]
  | succ n ih =>
    simp only [cellsRead]
    constructor
    · intro h
      split at h
      · cases h
      · rename_i v hv
        obtain ⟨ds, hds, rfl⟩ := Option.map_eq_some_iff.mp h
        obtain ⟨hl, hi⟩ := (ih (off + 1) ds).mp hds
        refine ⟨by simp [hl], fun i hlt => ?_⟩
        cases i with
        | zero => simpa using hv
        | succ i =>
          have := hi i (by omega)
          rw [show off + (i + 1) = off + 1 + i by omega, this]; simp
    · rintro ⟨hl, hi⟩
      cases d with
      | nil => simp at hl
      | cons v ds =>
        have h0 := hi 0 (by omega)
        simp only [Nat.add_zero, List.getElem?_cons_zero] at h0
        rw [h0]
        have := (ih (off + 1) ds).mpr ⟨by simpa using hl, fun i hlt => by
          have := hi (i + 1) (by omega)
          rw [show off + 1 + i = off + (i + 1) by omega, this]; simp⟩
        simp [this]

/-! ### The canonical form -/

theorem cellsWf_cons (x : Nat × α) (m : List (Nat × α)) :
    cellsWf (x :: m) = true ↔ (∀ y ∈ m, x.1 < y.1) ∧ cellsWf m = true := by
  induction m generalizing x with
  | nil => simp [cellsWf]
  | cons y rest ih =>
    simp only [cellsWf, Bool.and_eq_true, decide_eq_true_eq, List.mem_cons, forall_eq_or_imp]
    constructor
    · rintro ⟨h1, h2⟩
      exact ⟨⟨h1, fun z hz => Nat.lt_trans h1 (((ih y).mp h2).1 z hz)⟩, h2⟩
    · rintro ⟨⟨h1, _⟩, h2⟩
      exact ⟨h1, h2⟩

/-- The canonical form is: addresses pairwise rising. -/
theorem cellsWf_iff_pairwise (m : List (Nat × α)) :
    cellsWf m = true ↔ (m.map Prod.fst).Pairwise (· < ·) := by
  induction m with
  | nil => simp [cellsWf]
  | cons x m ih => simp [cellsWf_cons, ih]

theorem cellsPut_mem (a : Nat) (v : α) (m : List (Nat × α)) (x : Nat × α) (h : x ∈ cellsPut a v m) :
    x = (a, v) ∨ x ∈ m := by
  induction m with
  | nil => simpa [cellsPut] using h
  | cons y rest ih =>
    obtain ⟨k, w⟩ := y
    simp only [cellsPut] at h
    split at h
    · simpa using h
    · split at h
      · rcases List.mem_cons.mp h with h | h
        · exact .inl h
        · exact .inr (List.mem_cons_of_mem _ h)
      · rcases List.mem_cons.mp h with h | h
        · exact .inr (by simp [h])
        · rcases ih h with h | h
          · exact .inl h
          · exact .inr (List.mem_cons_of_mem _ h)

/-- A write keeps the canonical form. -/
theorem cellsPut_wf (a : Nat) (v : α) (m : List (Nat × α)) (h : cellsWf m = true) : cellsWf (cellsPut a v m) = true := by
  induction m with
  | nil => rfl
  | cons x rest ih =>
    obtain ⟨k, w⟩ := x
    obtain ⟨h1, h2⟩ := (cellsWf_cons _ _).mp h
    simp only [cellsPut]
    split
    · rename_i hlt
      refine (cellsWf_cons _ _).mpr ⟨?_, h⟩
      simp only [List.mem_cons, forall_eq_or_imp]
      exact ⟨hlt, fun y hy => Nat.lt_trans hlt (h1 y hy)⟩
    · split
      · rename_i hk
        subst hk
        exact (cellsWf_cons _ _).mpr ⟨h1, h2⟩
      · refine (cellsWf_cons _ _).mpr ⟨fun y hy => ?_, ih h2⟩
        rcases cellsPut_mem a v rest y hy with rfl | hy
        · simp only; omega
        · exact h1 y hy

/-- A run of writes keeps the canonical form. -/
theorem cellsPutAll_wf (vs : List α) (off : Nat) (m : List (Nat × α)) (h : cellsWf m = true) :
    cellsWf (cellsPutAll off vs m) = true := by
  induction vs generalizing off m with
  | nil => exact h
  | cons v vs ih => exact ih _ _ (cellsPut_wf _ _ _ h)

theorem cellsErase_mem (a : Nat) (m : List (Nat × α)) (x : Nat × α) (h : x ∈ cellsErase a m) : x ∈ m := by
  induction m with
  | nil => simp [cellsErase] at h
  | cons y rest ih =>
    obtain ⟨k, w⟩ := y
    simp only [cellsErase] at h
    split at h
    · exact List.mem_cons_of_mem _ h
    · rcases List.mem_cons.mp h with h | h
      · simp [h]
      · exact List.mem_cons_of_mem _ (ih h)

/-- A removal keeps the canonical form. -/
theorem cellsErase_wf (a : Nat) (m : List (Nat × α)) (h : cellsWf m = true) : cellsWf (cellsErase a m) = true := by
  induction m with
  | nil => rfl
  | cons x rest ih =>
    obtain ⟨k, w⟩ := x
    obtain ⟨h1, h2⟩ := (cellsWf_cons _ _).mp h
    simp only [cellsErase]
    split
    · exact h2
    · exact (cellsWf_cons _ _).mpr ⟨fun y hy => h1 y (cellsErase_mem _ _ _ hy), ih h2⟩

/-- In canonical form, an address below all listed ones holds nothing. -/
theorem cellsGet_below (a : Nat) (m : List (Nat × α)) (h : ∀ y ∈ m, a < y.1) : cellsGet a m = none := by
  induction m with
  | nil => rfl
  | cons x rest ih =>
    obtain ⟨k, w⟩ := x
    have hk : a < k := h (k, w) (by simp)
    simp only [cellsGet, show ¬k = a by omega, if_false]
    exact ih fun y hy => h y (List.mem_cons_of_mem _ hy)

/-- A read after a removal, in canonical form: nothing there, and what was there before elsewhere. -/
theorem cellsGet_erase (a b : Nat) (m : List (Nat × α)) (h : cellsWf m = true) :
    cellsGet b (cellsErase a m) = if b = a then none else cellsGet b m := by
  induction m with
  | nil => simp [cellsErase, cellsGet]
  | cons x rest ih =>
    obtain ⟨k, w⟩ := x
    obtain ⟨h1, h2⟩ := (cellsWf_cons _ _).mp h
    simp only [cellsErase]
    split
    · rename_i hk
      subst hk
      by_cases hb : b = k
      · subst hb; simp [cellsGet_below b rest h1]
      · simp [cellsGet, hb, Ne.symm hb]
    · rename_i hk
      simp only [cellsGet, ih h2]
      by_cases hb : k = b
      · have : b ≠ a := fun hh => hk (hb.trans hh)
        simp [hb, this]
      · simp [hb]

/-- A removal leaves every other address as it was. -/
theorem cellsGet_erase_of_ne (a b : Nat) (m : List (Nat × α)) (h : b ≠ a) :
    cellsGet b (cellsErase a m) = cellsGet b m := by
  induction m with
  | nil => rfl
  | cons x rest ih =>
    obtain ⟨k, w⟩ := x
    simp only [cellsErase]
    split
    · subst k
      simp [cellsGet, Ne.symm h]
    · simp [cellsGet, ih]

/-- A listed pair is what its address reads as, in canonical form. -/
theorem cellsGet_of_mem (m : List (Nat × α)) (h : cellsWf m = true) (x : Nat × α) (hx : x ∈ m) :
    cellsGet x.1 m = some x.2 := by
  induction m with
  | nil => cases hx
  | cons y rest ih =>
    obtain ⟨h1, h2⟩ := (cellsWf_cons _ _).mp h
    rcases List.mem_cons.mp hx with rfl | hx
    · simp [cellsGet]
    · have : y.1 < x.1 := h1 x hx
      simp only [cellsGet, show ¬y.1 = x.1 by omega, if_false]
      exact ih h2 hx

/-- An address reads as something exactly when it is listed. -/
theorem cellsGet_isSome (m : List (Nat × α)) (a : Nat) : (cellsGet a m).isSome = true ↔ a ∈ m.map Prod.fst := by
  induction m with
  | nil => simp [cellsGet]
  | cons y rest ih =>
    obtain ⟨k, w⟩ := y
    by_cases hk : k = a
    · simp [cellsGet, hk]
    · simp [cellsGet, hk, Ne.symm hk] at ih ⊢
      exact ih

/-- A write above all listed addresses is an append. -/
theorem cellsPut_above (a : Nat) (v : α) (m : List (Nat × α)) (h : ∀ y ∈ m, y.1 < a) :
    cellsPut a v m = m ++ [(a, v)] := by
  induction m with
  | nil => rfl
  | cons x rest ih =>
    obtain ⟨k, w⟩ := x
    have hk : k < a := h (k, w) (by simp)
    simp only [cellsPut, show ¬a < k by omega, show ¬k = a by omega, if_false, List.cons_append]
    rw [ih fun y hy => h y (List.mem_cons_of_mem _ hy)]

/-- An append of a burst at the first free offset (20_memory.md R66): the listed addresses stay `0 .. n-1`. -/
theorem cellsPutAll_keys (vs : List α) (n : Nat) (m : List (Nat × α)) (h : m.map Prod.fst = List.range n) :
    (cellsPutAll n vs m).map Prod.fst = List.range (n + vs.length) := by
  induction vs generalizing n m with
  | nil => simpa [cellsPutAll] using h
  | cons v vs ih =>
    have hb : ∀ y ∈ m, y.1 < n := fun y hy => by
      have : y.1 ∈ m.map Prod.fst := List.mem_map_of_mem hy
      rw [h] at this
      exact List.mem_range.mp this
    have := ih (n + 1) (cellsPut n v m) (by rw [cellsPut_above n v m hb]; simp [h, List.range_succ])
    simpa [cellsPutAll, Nat.add_assoc, Nat.add_comm 1] using this

/-- A buffer that lists `0 .. n-1` is in canonical form. -/
theorem cellsWf_of_range (n : Nat) (m : List (Nat × α)) (h : m.map Prod.fst = List.range n) : cellsWf m = true := by
  rw [cellsWf_iff_pairwise, h]
  exact List.pairwise_lt_range

/-- Every window below `n` of a buffer that lists `0 .. n-1` can be read. -/
theorem cellsRead_window (n : Nat) (m : List (Nat × α)) (h : m.map Prod.fst = List.range n) (off k : Nat)
    (hk : off + k ≤ n) : ∃ d, cellsRead off k m = some d := by
  induction k generalizing off with
  | zero => exact ⟨[], rfl⟩
  | succ k ih =>
    obtain ⟨d, hd⟩ := ih (off + 1) (by omega)
    have : (cellsGet off m).isSome = true := by
      rw [cellsGet_isSome, h]
      exact List.mem_range.mpr (by omega)
    obtain ⟨v, hv⟩ := Option.isSome_iff_exists.mp this
    exact ⟨v :: d, by simp [cellsRead, hv, hd]⟩

/-! ### The two memories -/

theorem Memory.writeBytes_wf (m : Memory) (off : Nat) (d : List Byte) (h : m.wf = true) :
    (m.writeBytes off d).wf = true :=
  cellsPutAll_wf d off m h

/-- `MemWrite` sets the bytes of the burst and changes no other byte (20_memory.md R67). -/
theorem Memory.read_writeBytes (m : Memory) (off : Nat) (d : List Byte) (a : Nat) :
    (m.writeBytes off d).read a = if off ≤ a ∧ a < off + d.length then d[a - off]? else m.read a :=
  cellsGet_putAll d off a m

theorem Memory.readBytes_eq_some (m : Memory) (off n : Nat) (d : List Byte) :
    m.readBytes off n = some d ↔ d.length = n ∧ ∀ i < n, m.read (off + i) = d[i]? :=
  cellsRead_eq_some off n m d

theorem ScratchMap.store_wf (m : ScratchMap) (start : Nat) (vs : List Nat) (h : m.wf = true) :
    (m.store start vs).wf = true :=
  cellsPutAll_wf vs start m h

theorem ScratchMap.remove_wf (m : ScratchMap) (a : Nat) (h : m.wf = true) : (m.remove a).wf = true :=
  cellsErase_wf a m h

theorem ScratchMap.lookup_store (m : ScratchMap) (start : Nat) (vs : List Nat) (a : Nat) :
    (m.store start vs).lookup a = if start ≤ a ∧ a < start + vs.length then vs[a - start]? else m.lookup a :=
  cellsGet_putAll vs start a m

theorem ScratchMap.lookup_remove (m : ScratchMap) (a b : Nat) (h : m.wf = true) :
    (m.remove a).lookup b = if b = a then none else m.lookup b :=
  cellsGet_erase a b m h

theorem ScratchMap.lookup_remove_of_ne (m : ScratchMap) (a b : Nat) (h : b ≠ a) :
    (m.remove a).lookup b = m.lookup b :=
  cellsGet_erase_of_ne a b m h

/-- The buffer and the map of every unit after reset are in canonical form. -/
theorem State.reset_memories_wf :
    (∀ c ∈ State.reset.channels, c.buf.wf = true) ∧ State.reset.ps.map.wf = true :=
  ⟨by simp [State.reset, State.atReset, Config.atReset, Channel.atReset, Memory.wf, cellsWf], rfl⟩

end Sys2Proof.Machine
end

