-- ==== Sys2Proof/Laws/Config.lean ====
section
/-! SUPPORT. What a well-formed configuration (00_scope.md R10) gives, and what the count of distinct addresses bounds. -/

namespace Sys2Proof.Machine

open Sys2Proof

theorem channelCfgWf_iff (p : Params) (c : ChannelCfg) :
    channelCfgWf p c = true ↔
      1 ≤ c.cap ∧ c.cap < 2 ^ 16 ∧ c.trailer < 2 ^ 16 ∧ 2 * c.throttle < 2 ^ p.timeW ∧ c.framing = .marker ∧
      1 ≤ c.sm.length ∧ 1 ≤ c.em.length ∧ c.em.length ≤ c.trailer ∧ c.sm.length + c.trailer ≤ c.cap := by
  simp [channelCfgWf, belowHalf, and_assoc]

theorem slaveCfgWf_iff (p : Params) (c : SlaveCfg) :
    slaveCfgWf p c = true ↔
      c.addr < 2 ^ p.busAddrW ∧ c.interval < 2 ^ p.timeW ∧ c.blocks.length ≤ 256 ∧
      (∀ b ∈ c.blocks, 1 ≤ b.count ∧ b.start + b.count ≤ 2 ^ p.regAddrW) ∧
      (c.interval = 0 ∨ 1 ≤ c.blocks.length) ∧ (distinct (slaveAddrs c)).length ≤ p.mapCap := by
  simp [slaveCfgWf, blockWf, and_assoc]

theorem configWf_iff (g : Config) :
    configWf g = true ↔
      2 * g.params.tSettle < 2 ^ g.params.timeW ∧ 2 * g.params.tResponse < 2 ^ g.params.timeW ∧
      g.params.minFrame < 2 ^ 16 ∧ 1 ≤ g.channels.length ∧ g.channels.length ≤ 256 ∧
      (∀ c ∈ g.channels, channelCfgWf g.params c = true) ∧ g.slaves.length ≤ 256 ∧
      (∀ c ∈ g.slaves, slaveCfgWf g.params c = true) := by
  simp [configWf, paramsWf, belowHalf, and_assoc]

/-- The configuration of a channel record of a machine with a well-formed configuration. -/
theorem channelCfgWf_of_config (s : State) (i : Nat) (c : Channel) (h : configWf s.config = true)
    (hc : s.channels[i]? = some c) : channelCfgWf s.params c.cfg = true :=
  ((configWf_iff _).mp h).2.2.2.2.2.1 _ (List.mem_map_of_mem (List.mem_of_getElem? hc))

/-- The configuration of a slave record of a machine with a well-formed configuration. -/
theorem slaveCfgWf_of_config (s : State) (i : Nat) (r : Slave) (h : configWf s.config = true)
    (hr : s.slaves[i]? = some r) : slaveCfgWf s.params r.cfg = true :=
  ((configWf_iff _).mp h).2.2.2.2.2.2.2 _ (List.mem_map_of_mem (List.mem_of_getElem? hr))

theorem slaves_length_le (s : State) (h : configWf s.config = true) : s.slaves.length ≤ 256 := by
  simpa [State.config] using ((configWf_iff _).mp h).2.2.2.2.2.2.1

theorem channels_length_le (s : State) (h : configWf s.config = true) : s.channels.length ≤ 256 := by
  simpa [State.config] using ((configWf_iff _).mp h).2.2.2.2.1

theorem mem_distinct (l : List Nat) (a : Nat) : a ∈ distinct l ↔ a ∈ l := by
  induction l with
  | nil => rfl
  | cons b l ih =>
    simp only [distinct, List.elem_eq_mem, decide_eq_true_eq]
    split
    · rename_i hb
      simp only [ih, List.mem_cons]
      exact ⟨.inr, fun h => h.elim (fun h => h ▸ hb) id⟩
    · simp [ih]

/-- A list without repeats whose elements all come from `l` is no longer than the distinct elements of `l`
(00_scope.md R10 (e): why the scratch map cannot overflow). -/
theorem length_le_distinct (m l : List Nat) (hm : m.Nodup) (h : ∀ a ∈ m, a ∈ l) : m.length ≤ (distinct l).length :=
  (hm.subperm fun a ha => (mem_distinct l a).mpr (h a ha)).length_le

theorem mem_blockAddrs (b : Block) (a : Nat) : a ∈ blockAddrs b ↔ b.start ≤ a ∧ a < b.start + b.count := by
  simp only [blockAddrs, List.mem_map, List.mem_range]
  constructor
  · rintro ⟨i, hi, rfl⟩; omega
  · rintro ⟨h1, h2⟩; exact ⟨a - b.start, by omega, by omega⟩

theorem mem_slaveAddrs (c : SlaveCfg) (a : Nat) :
    a ∈ slaveAddrs c ↔ ∃ b ∈ c.blocks, b.start ≤ a ∧ a < b.start + b.count := by
  simp [slaveAddrs, mem_blockAddrs]

end Sys2Proof.Machine
end

