-- ==== Sys2Proof/Laws/Guards.lean ====
section
/-! SUPPORT. What each guard asks for: each answers a next state exactly when its conditions hold and what stands
under it answers that state. -/

namespace Sys2Proof.Machine

open Sys2Proof

@[simp] theorem ready_eq_next (s t : State) (k : Result) :
    ready s k = .next t ↔ configWf s.config = true ∧ k = .next t := by
  unfold ready; split <;> simp_all

@[simp] theorem ready_eq_fault (s : State) (f : Fault) (k : Result) :
    ready s k = .fault f ↔ configWf s.config = true ∧ k = .fault f := by
  unfold ready; split <;> simp_all

/-- Under a well-formed configuration `ready` does nothing. -/
theorem ready_of_wf (s : State) (k : Result) (h : configWf s.config = true) : ready s k = k := by
  simp [ready, h]

@[simp] theorem onChannel_eq_next (s t : State) (ch : ChField) (st : ChState) (k : Channel → Result) :
    onChannel s ch st k = .next t ↔
      configWf s.config = true ∧ ∃ c, s.channels[ch.toNat]? = some c ∧ c.state = st ∧ k c = .next t := by
  unfold onChannel
  rw [ready_eq_next]
  cases h : s.channels[ch.toNat]? with
  | none => simp
  | some c => by_cases hc : c.state = st <;> simp [hc]

@[simp] theorem onChannel_eq_fault (s : State) (f : Fault) (ch : ChField) (st : ChState) (k : Channel → Result) :
    onChannel s ch st k = .fault f ↔
      configWf s.config = true ∧ ∃ c, s.channels[ch.toNat]? = some c ∧ c.state = st ∧ k c = .fault f := by
  unfold onChannel
  rw [ready_eq_fault]
  cases h : s.channels[ch.toNat]? with
  | none => simp
  | some c => by_cases hc : c.state = st <;> simp [hc]

/-- A row of the Channel machine in the state its key names is what stands under the guard. -/
theorem onChannel_of (s : State) (ch : ChField) (c : Channel) (k : Channel → Result)
    (hw : configWf s.config = true) (hc : s.channels[ch.toNat]? = some c) : onChannel s ch c.state k = k c := by
  simp [onChannel, ready, hw, hc]

@[simp] theorem onScheduler_eq_next (s t : State) (st : PsState) (cond : Bool) (k : Result) :
    onScheduler s st cond k = .next t ↔
      configWf s.config = true ∧ s.ps.state = st ∧ cond = true ∧ k = .next t := by
  unfold onScheduler
  rw [ready_eq_next]
  by_cases h : s.ps.state = st <;> cases cond <;> simp [h]

@[simp] theorem onScheduler_eq_fault (s : State) (f : Fault) (st : PsState) (cond : Bool) (k : Result) :
    onScheduler s st cond k = .fault f ↔
      configWf s.config = true ∧ s.ps.state = st ∧ cond = true ∧ k = .fault f := by
  unfold onScheduler
  rw [ready_eq_fault]
  by_cases h : s.ps.state = st <;> cases cond <;> simp [h]

/-- A row of the scheduler in the state its key names, under its condition, is what stands under the guard. -/
theorem onScheduler_of (s : State) (st : PsState) (cond : Bool) (k : Result)
    (hw : configWf s.config = true) (hs : s.ps.state = st) (hc : cond = true) : onScheduler s st cond k = k := by
  simp [onScheduler, ready, hw, hs, hc]

@[simp] theorem withSlave_eq_next (s t : State) (k : Slave → Result) :
    withSlave s k = .next t ↔ ∃ r, s.slaves[s.ps.curSlave]? = some r ∧ k r = .next t := by
  unfold withSlave
  cases s.slaves[s.ps.curSlave]? <;> simp

theorem withSlave_of (s : State) (r : Slave) (k : Slave → Result) (h : s.slaves[s.ps.curSlave]? = some r) :
    withSlave s k = k r := by
  simp [withSlave, h]

@[simp] theorem withBlock_eq_next (s t : State) (r : Slave) (k : Block → Result) :
    withBlock s r k = .next t ↔ ∃ b, r.cfg.blocks[s.ps.curBlock]? = some b ∧ k b = .next t := by
  unfold withBlock
  cases r.cfg.blocks[s.ps.curBlock]? <;> simp

theorem withBlock_of (s : State) (r : Slave) (b : Block) (k : Block → Result)
    (h : r.cfg.blocks[s.ps.curBlock]? = some b) : withBlock s r k = k b := by
  simp [withBlock, h]

end Sys2Proof.Machine
end

