-- ==== Sys2Proof/Laws/State.lean ====
section
/-! SUPPORT. What each record update does to each field: no later proof unfolds an update. -/

namespace Sys2Proof.Machine

open Sys2Proof

/-! ### Updates of the machine -/

@[simp] theorem State.emit_params (s : State) (es : List Event) : (s.emit es).params = s.params := rfl
@[simp] theorem State.emit_channels (s : State) (es : List Event) : (s.emit es).channels = s.channels := rfl
@[simp] theorem State.emit_slaves (s : State) (es : List Event) : (s.emit es).slaves = s.slaves := rfl
@[simp] theorem State.emit_ps (s : State) (es : List Event) : (s.emit es).ps = s.ps := rfl
@[simp] theorem State.emit_inbox (s : State) (es : List Event) : (s.emit es).inbox = s.inbox := rfl
@[simp] theorem State.emit_out (s : State) (es : List Event) : (s.emit es).out = s.out ++ es := rfl
@[simp] theorem State.emit_resets (s : State) (es : List Event) : (s.emit es).resets = s.resets := rfl

@[simp] theorem State.setChannel_params (s : State) (i : Nat) (c : Channel) : (s.setChannel i c).params = s.params := rfl
@[simp] theorem State.setChannel_channels (s : State) (i : Nat) (c : Channel) : (s.setChannel i c).channels = s.channels.set i c := rfl
@[simp] theorem State.setChannel_slaves (s : State) (i : Nat) (c : Channel) : (s.setChannel i c).slaves = s.slaves := rfl
@[simp] theorem State.setChannel_ps (s : State) (i : Nat) (c : Channel) : (s.setChannel i c).ps = s.ps := rfl
@[simp] theorem State.setChannel_inbox (s : State) (i : Nat) (c : Channel) : (s.setChannel i c).inbox = s.inbox := rfl
@[simp] theorem State.setChannel_out (s : State) (i : Nat) (c : Channel) : (s.setChannel i c).out = s.out := rfl
@[simp] theorem State.setChannel_resets (s : State) (i : Nat) (c : Channel) : (s.setChannel i c).resets = s.resets := rfl

@[simp] theorem State.setSlave_params (s : State) (i : Nat) (r : Slave) : (s.setSlave i r).params = s.params := rfl
@[simp] theorem State.setSlave_channels (s : State) (i : Nat) (r : Slave) : (s.setSlave i r).channels = s.channels := rfl
@[simp] theorem State.setSlave_slaves (s : State) (i : Nat) (r : Slave) : (s.setSlave i r).slaves = s.slaves.set i r := rfl
@[simp] theorem State.setSlave_ps (s : State) (i : Nat) (r : Slave) : (s.setSlave i r).ps = s.ps := rfl
@[simp] theorem State.setSlave_inbox (s : State) (i : Nat) (r : Slave) : (s.setSlave i r).inbox = s.inbox := rfl
@[simp] theorem State.setSlave_out (s : State) (i : Nat) (r : Slave) : (s.setSlave i r).out = s.out := rfl
@[simp] theorem State.setSlave_resets (s : State) (i : Nat) (r : Slave) : (s.setSlave i r).resets = s.resets := rfl

@[simp] theorem State.setPs_params (s : State) (ps : Scheduler) : (s.setPs ps).params = s.params := rfl
@[simp] theorem State.setPs_channels (s : State) (ps : Scheduler) : (s.setPs ps).channels = s.channels := rfl
@[simp] theorem State.setPs_slaves (s : State) (ps : Scheduler) : (s.setPs ps).slaves = s.slaves := rfl
@[simp] theorem State.setPs_ps (s : State) (ps : Scheduler) : (s.setPs ps).ps = ps := rfl
@[simp] theorem State.setPs_inbox (s : State) (ps : Scheduler) : (s.setPs ps).inbox = s.inbox := rfl
@[simp] theorem State.setPs_out (s : State) (ps : Scheduler) : (s.setPs ps).out = s.out := rfl
@[simp] theorem State.setPs_resets (s : State) (ps : Scheduler) : (s.setPs ps).resets = s.resets := rfl

@[simp] theorem State.present_params (s : State) (is : List Input) : (s.present is).params = s.params := rfl
@[simp] theorem State.present_channels (s : State) (is : List Input) : (s.present is).channels = s.channels := rfl
@[simp] theorem State.present_slaves (s : State) (is : List Input) : (s.present is).slaves = s.slaves := rfl
@[simp] theorem State.present_ps (s : State) (is : List Input) : (s.present is).ps = s.ps := rfl
@[simp] theorem State.present_inbox (s : State) (is : List Input) : (s.present is).inbox = is ++ s.inbox := rfl
@[simp] theorem State.present_out (s : State) (is : List Input) : (s.present is).out = s.out := rfl
@[simp] theorem State.present_resets (s : State) (is : List Input) : (s.present is).resets = s.resets := rfl

@[simp] theorem State.emit_config (s : State) (es : List Event) : (s.emit es).config = s.config := rfl
@[simp] theorem State.setPs_config (s : State) (ps : Scheduler) : (s.setPs ps).config = s.config := rfl
@[simp] theorem State.present_config (s : State) (is : List Input) : (s.present is).config = s.config := rfl

/-- A channel record replaced by one of the same configuration keeps the configuration (10_state.md R53). -/
theorem State.setChannel_config (s : State) (i : Nat) (c d : Channel) (h : s.channels[i]? = some c)
    (hd : d.cfg = c.cfg) : (s.setChannel i d).config = s.config := by
  have : (s.channels.set i d).map Channel.cfg = s.channels.map Channel.cfg := by
    rw [List.map_set, hd]
    refine List.ext_getElem? fun j => ?_
    rw [List.getElem?_set]
    split
    · subst j
      obtain ⟨hi, rfl⟩ := List.getElem?_eq_some_iff.mp h
      simp [hi]
    · rfl
  simp [State.config, this]

/-- A slave record replaced by one of the same configuration keeps the configuration (10_state.md R53). -/
theorem State.setSlave_config (s : State) (i : Nat) (r q : Slave) (h : s.slaves[i]? = some r)
    (hq : q.cfg = r.cfg) : (s.setSlave i q).config = s.config := by
  have : (s.slaves.set i q).map Slave.cfg = s.slaves.map Slave.cfg := by
    rw [List.map_set, hq]
    refine List.ext_getElem? fun j => ?_
    rw [List.getElem?_set]
    split
    · subst j
      obtain ⟨hi, rfl⟩ := List.getElem?_eq_some_iff.mp h
      simp [hi]
    · rfl
  simp [State.config, this]

/-! ### Updates of a channel record -/

@[simp] theorem Channel.discard_cfg (c : Channel) : (c.discard).cfg = c.cfg := rfl
@[simp] theorem Channel.discard_state (c : Channel) : (c.discard).state = .idle := rfl
@[simp] theorem Channel.discard_cursor (c : Channel) : (c.discard).cursor = 0 := rfl
@[simp] theorem Channel.discard_buf (c : Channel) : (c.discard).buf = [] := rfl
@[simp] theorem Channel.discard_resume (c : Channel) : (c.discard).resume = c.resume := rfl

@[simp] theorem Channel.append_cfg (c : Channel) (d : List Byte) : (c.append d).cfg = c.cfg := rfl
@[simp] theorem Channel.append_state (c : Channel) (d : List Byte) : (c.append d).state = .collecting := rfl
@[simp] theorem Channel.append_cursor (c : Channel) (d : List Byte) : (c.append d).cursor = c.cursor + d.length := rfl
@[simp] theorem Channel.append_buf (c : Channel) (d : List Byte) : (c.append d).buf = c.buf.writeBytes c.cursor d := rfl
@[simp] theorem Channel.append_resume (c : Channel) (d : List Byte) : (c.append d).resume = c.resume := rfl

@[simp] theorem Channel.delivered_cfg (p : Params) (c : Channel) (now : Nat) : (c.delivered p now).cfg = c.cfg := by
  unfold Channel.delivered; split <;> rfl

/-! ### Updates of a slave record -/

@[simp] theorem Slave.identityPublished_cfg (r : Slave) : (r.identityPublished).cfg = r.cfg := rfl
@[simp] theorem Slave.identityPublished_lastPoll (r : Slave) : (r.identityPublished).lastPoll = r.lastPoll := rfl
@[simp] theorem Slave.identityPublished_idValid (r : Slave) : (r.identityPublished).idValid = r.idValid := rfl
@[simp] theorem Slave.identityPublished_idVal (r : Slave) : (r.identityPublished).idVal = r.idVal := rfl
@[simp] theorem Slave.identityPublished_idFresh (r : Slave) : (r.identityPublished).idFresh = false := rfl
@[simp] theorem Slave.identityPublished_succCnt (r : Slave) : (r.identityPublished).succCnt = r.succCnt := rfl
@[simp] theorem Slave.identityPublished_errCnt (r : Slave) : (r.identityPublished).errCnt = r.errCnt := rfl
@[simp] theorem Slave.identityPublished_lastErr (r : Slave) : (r.identityPublished).lastErr = r.lastErr := rfl

@[simp] theorem Slave.failed_cfg (p : Params) (r : Slave) (code : Code) : (r.failed p code).cfg = r.cfg := rfl
@[simp] theorem Slave.failed_lastPoll (p : Params) (r : Slave) (code : Code) : (r.failed p code).lastPoll = r.lastPoll := rfl
@[simp] theorem Slave.failed_idValid (p : Params) (r : Slave) (code : Code) : (r.failed p code).idValid = r.idValid := rfl
@[simp] theorem Slave.failed_idVal (p : Params) (r : Slave) (code : Code) : (r.failed p code).idVal = r.idVal := rfl
@[simp] theorem Slave.failed_idFresh (p : Params) (r : Slave) (code : Code) : (r.failed p code).idFresh = r.idFresh := rfl
@[simp] theorem Slave.failed_succCnt (p : Params) (r : Slave) (code : Code) : (r.failed p code).succCnt = r.succCnt := rfl
@[simp] theorem Slave.failed_errCnt (p : Params) (r : Slave) (code : Code) : (r.failed p code).errCnt = (r.errCnt + 1) % 2 ^ p.cntW := rfl
@[simp] theorem Slave.failed_lastErr (p : Params) (r : Slave) (code : Code) : (r.failed p code).lastErr = code := rfl

@[simp] theorem Slave.succeeded_cfg (p : Params) (r : Slave) : (r.succeeded p).cfg = r.cfg := rfl
@[simp] theorem Slave.succeeded_lastPoll (p : Params) (r : Slave) : (r.succeeded p).lastPoll = r.lastPoll := rfl
@[simp] theorem Slave.succeeded_idValid (p : Params) (r : Slave) : (r.succeeded p).idValid = r.idValid := rfl
@[simp] theorem Slave.succeeded_idVal (p : Params) (r : Slave) : (r.succeeded p).idVal = r.idVal := rfl
@[simp] theorem Slave.succeeded_idFresh (p : Params) (r : Slave) : (r.succeeded p).idFresh = r.idFresh := rfl
@[simp] theorem Slave.succeeded_succCnt (p : Params) (r : Slave) : (r.succeeded p).succCnt = (r.succCnt + 1) % 2 ^ p.cntW := rfl
@[simp] theorem Slave.succeeded_errCnt (p : Params) (r : Slave) : (r.succeeded p).errCnt = r.errCnt := rfl
@[simp] theorem Slave.succeeded_lastErr (p : Params) (r : Slave) : (r.succeeded p).lastErr = r.lastErr := rfl

@[simp] theorem Slave.answer_cfg (r : Slave) (id : IdRsp) : (r.answer id).cfg = r.cfg := by
  unfold Slave.answer; split <;> rfl
@[simp] theorem Slave.answer_lastPoll (r : Slave) (id : IdRsp) : (r.answer id).lastPoll = r.lastPoll := by
  unfold Slave.answer; split <;> rfl
@[simp] theorem Slave.answer_succCnt (r : Slave) (id : IdRsp) : (r.answer id).succCnt = r.succCnt := by
  unfold Slave.answer; split <;> rfl
@[simp] theorem Slave.answer_errCnt (r : Slave) (id : IdRsp) : (r.answer id).errCnt = r.errCnt := by
  unfold Slave.answer; split <;> rfl
@[simp] theorem Slave.answer_lastErr (r : Slave) (id : IdRsp) : (r.answer id).lastErr = r.lastErr := by
  unfold Slave.answer; split <;> rfl

/-! ### Updates of the scheduler's registers -/

@[simp] theorem Scheduler.taint_state (ps : Scheduler) : (ps.taint).state = ps.state := rfl
@[simp] theorem Scheduler.taint_curSlave (ps : Scheduler) : (ps.taint).curSlave = ps.curSlave := rfl
@[simp] theorem Scheduler.taint_curBlock (ps : Scheduler) : (ps.taint).curBlock = ps.curBlock := rfl
@[simp] theorem Scheduler.taint_map (ps : Scheduler) : (ps.taint).map = ps.map := rfl
@[simp] theorem Scheduler.taint_deadline (ps : Scheduler) : (ps.taint).deadline = ps.deadline := rfl
@[simp] theorem Scheduler.taint_tainted (ps : Scheduler) : (ps.taint).tainted = true := rfl
@[simp] theorem Scheduler.taint_rsp (ps : Scheduler) : (ps.taint).rsp = ps.rsp := rfl
@[simp] theorem Scheduler.taint_txen (ps : Scheduler) : (ps.taint).txen = ps.txen := rfl

@[simp] theorem Scheduler.armLine_state (ps : Scheduler) : (ps.armLine).state = ps.state := rfl
@[simp] theorem Scheduler.armLine_curSlave (ps : Scheduler) : (ps.armLine).curSlave = ps.curSlave := rfl
@[simp] theorem Scheduler.armLine_curBlock (ps : Scheduler) : (ps.armLine).curBlock = ps.curBlock := rfl
@[simp] theorem Scheduler.armLine_map (ps : Scheduler) : (ps.armLine).map = ps.map := rfl
@[simp] theorem Scheduler.armLine_deadline (ps : Scheduler) : (ps.armLine).deadline = ps.deadline := rfl
@[simp] theorem Scheduler.armLine_tainted (ps : Scheduler) : (ps.armLine).tainted = ps.tainted := rfl
@[simp] theorem Scheduler.armLine_rsp (ps : Scheduler) : (ps.armLine).rsp = ps.rsp := rfl
@[simp] theorem Scheduler.armLine_txen (ps : Scheduler) : (ps.armLine).txen = true := rfl

@[simp] theorem Scheduler.releaseLine_state (ps : Scheduler) : (ps.releaseLine).state = ps.state := rfl
@[simp] theorem Scheduler.releaseLine_curSlave (ps : Scheduler) : (ps.releaseLine).curSlave = ps.curSlave := rfl
@[simp] theorem Scheduler.releaseLine_curBlock (ps : Scheduler) : (ps.releaseLine).curBlock = ps.curBlock := rfl
@[simp] theorem Scheduler.releaseLine_map (ps : Scheduler) : (ps.releaseLine).map = ps.map := rfl
@[simp] theorem Scheduler.releaseLine_deadline (ps : Scheduler) : (ps.releaseLine).deadline = ps.deadline := rfl
@[simp] theorem Scheduler.releaseLine_tainted (ps : Scheduler) : (ps.releaseLine).tainted = ps.tainted := rfl
@[simp] theorem Scheduler.releaseLine_rsp (ps : Scheduler) : (ps.releaseLine).rsp = ps.rsp := rfl
@[simp] theorem Scheduler.releaseLine_txen (ps : Scheduler) : (ps.releaseLine).txen = false := rfl

@[simp] theorem Scheduler.destroyCycle_state (ps : Scheduler) : (ps.destroyCycle).state = .idle := rfl
@[simp] theorem Scheduler.destroyCycle_curSlave (ps : Scheduler) : (ps.destroyCycle).curSlave = 0 := rfl
@[simp] theorem Scheduler.destroyCycle_curBlock (ps : Scheduler) : (ps.destroyCycle).curBlock = 0 := rfl
@[simp] theorem Scheduler.destroyCycle_map (ps : Scheduler) : (ps.destroyCycle).map = ps.map := rfl
@[simp] theorem Scheduler.destroyCycle_deadline (ps : Scheduler) : (ps.destroyCycle).deadline = ps.deadline := rfl
@[simp] theorem Scheduler.destroyCycle_tainted (ps : Scheduler) : (ps.destroyCycle).tainted = false := rfl
@[simp] theorem Scheduler.destroyCycle_rsp (ps : Scheduler) : (ps.destroyCycle).rsp = [] := rfl
@[simp] theorem Scheduler.destroyCycle_txen (ps : Scheduler) : (ps.destroyCycle).txen = ps.txen := rfl

end Sys2Proof.Machine
end

