-- ==== Sys2Proof/Laws/Channel.lean ====
section
/-! SUPPORT. What each shared operation of the Channel machine can do. -/

namespace Sys2Proof.Machine

open Sys2Proof

/-- An arriving burst does nothing, is a framing error, or is appended (40_channel.md R106, R107). -/
theorem State.acceptBurst_cases (s : State) (i : Nat) (c : Channel) (data : List Byte) :
    (data.length = 0 ∧ s.acceptBurst i c data = s) ∨
    (data.length ≠ 0 ∧ c.cfg.cap < c.cursor + data.length ∧
      s.acceptBurst i c data = s.framingError i c .bufferOverflow) ∨
    (data.length ≠ 0 ∧ c.cursor + data.length ≤ c.cfg.cap ∧
      s.acceptBurst i c data = s.setChannel i (c.append data)) := by
  unfold State.acceptBurst
  split
  · exact .inl ⟨‹_›, rfl⟩
  · split
    · exact .inr (.inl ⟨‹_›, ‹_›, rfl⟩)
    · exact .inr (.inr ⟨‹_›, by omega, rfl⟩)

/-- A delivery throttles the channel or discards its buffer (40_channel.md R114). -/
theorem Channel.delivered_cases (p : Params) (c : Channel) (now : Nat) :
    (0 < c.cfg.throttle ∧
      c.delivered p now = { c with resume := tadd p now c.cfg.throttle, state := .throttled }) ∨
    (c.cfg.throttle = 0 ∧ c.delivered p now = c.discard) := by
  unfold Channel.delivered
  split
  · exact .inl ⟨‹_›, rfl⟩
  · exact .inr ⟨by omega, rfl⟩

@[simp] theorem State.deliver_eq_next (s t : State) (i : Nat) (c : Channel) (now : Nat) :
    s.deliver i c now = .next t ↔
      ∃ bytes, c.buf.readBytes 0 c.cursor = some bytes ∧
        t = (s.setChannel i (c.delivered s.params now)).emit [.decode i c.cursor bytes] := by
  unfold State.deliver
  cases c.buf.readBytes 0 c.cursor <;> simp [eq_comm]

@[simp] theorem State.deliver_ne_refused (s : State) (i : Nat) (c : Channel) (now : Nat) (r : Refusal) :
    s.deliver i c now ≠ .refused r := by
  unfold State.deliver
  split <;> simp

/-- A buffer that holds a value at every offset below the cursor is delivered whole. -/
theorem State.deliver_of_full (s : State) (i : Nat) (c : Channel) (now : Nat)
    (h : c.buf.map Prod.fst = List.range c.cursor) :
    ∃ bytes : List Byte, bytes.length = c.cursor ∧ (∀ a < c.cursor, c.buf.read a = bytes[a]?) ∧
      s.deliver i c now = .next ((s.setChannel i (c.delivered s.params now)).emit [.decode i c.cursor bytes]) := by
  obtain ⟨d, hd⟩ := cellsRead_window c.cursor c.buf h 0 c.cursor (by omega)
  obtain ⟨hl, hi⟩ := (cellsRead_eq_some 0 c.cursor c.buf d).mp hd
  refine ⟨d, hl, fun a ha => by simpa [Memory.read] using hi a ha, ?_⟩
  simp [State.deliver, Memory.readBytes, hd]

/-- A buffer that holds a value at every offset below the cursor is validated without an undefined window
(20_memory.md R68). -/
theorem Channel.validate_defined (p : Params) (c : Channel) (hw : channelCfgWf p c.cfg = true)
    (h : c.buf.map Prod.fst = List.range c.cursor) : c.validate ≠ .undefinedWindow := by
  have hw := (channelCfgWf_iff p c.cfg).mp hw
  unfold Channel.validate
  split
  · simp
  · obtain ⟨d, hd⟩ := cellsRead_window c.cursor c.buf h 0 c.cfg.sm.length (by omega)
    obtain ⟨e, he⟩ := cellsRead_window c.cursor c.buf h (c.cursor - c.cfg.trailer) c.cfg.em.length (by omega)
    simp only [Memory.readBytes, hd, he]
    split
    · simp
    · split <;> simp

/-- Validation finds no overflow: that error is raised by `PUSH` only (60_exceptions.md R178). -/
theorem Channel.validate_ne_overflow (c : Channel) : c.validate ≠ .bad .bufferOverflow := by
  unfold Channel.validate
  repeat' split
  all_goals simp

end Sys2Proof.Machine
end

