-- ==== Sys2Proof/Laws/Decode.lean ====
section
/-! SUPPORT. What fetching, selecting a row and applying an operation can answer. -/

namespace Sys2Proof.Machine

open Sys2Proof

/-- What a fetch answers: `nop` with nothing presented, else what the oldest input decodes to. -/
theorem State.fetch_eq_ok (s t : State) (i : Instr) :
    s.fetch = .ok (i, t) ↔
      (s.inbox = [] ∧ i = .nop 0 ∧ t = s) ∨
      ∃ inp q left, s.inbox = inp :: q ∧ decode s inp = .ok (i, left) ∧ t = { s with inbox := left ++ q } := by
  unfold State.fetch
  cases h : s.inbox with
  | nil => simp [eq_comm]
  | cons inp q =>
    cases hd : decode s inp with
    | error r => simp [hd]
    | ok x => obtain ⟨j, left⟩ := x; simp [hd, eq_comm]

/-- What an input decodes to: reset, a selected row of the operation its bits begin with, or a pseudo-operation. -/
theorem decode_eq_ok (s : State) (inp : Input) (i : Instr) (left : List Input) :
    decode s inp = .ok (i, left) ↔
      (inp = .rst ∧ i = .reset ∧ left = []) ∨
      (∃ bs op rest, inp = .bits bs ∧ decodeOp s.params bs = .ok (op, rest) ∧ selectRow s op = .ok i ∧
        left = leftover rest) ∨
      (∃ now id bus, inp = .loop now id bus ∧ stickWf s.params now id bus = true ∧ i = .loop now id bus ∧ left = []) ∨
      (∃ ch payload suffix, inp = .frame ch payload suffix ∧ i = .frame ch payload suffix ∧ left = []) := by
  cases inp with
  | rst =>
    simp only [decode, Except.ok.injEq, Prod.mk.injEq, true_and, reduceCtorEq, false_and, exists_false, or_false]
    exact ⟨fun h => ⟨h.1.symm, h.2.symm⟩, fun h => ⟨h.1.symm, h.2.symm⟩⟩
  | bits bs =>
    cases hd : decodeOp s.params bs with
    | error r => simp [decode, hd]
    | ok x =>
      obtain ⟨op, rest⟩ := x
      cases hr : selectRow s op with
      | error r =>
        simp only [decode, hd, hr, reduceCtorEq, false_and, exists_false, or_false, false_or, Input.bits.injEq,
          false_iff, not_exists, not_and]
        rintro bs' op' rest' rfl h2 h3
        rw [hd] at h2
        cases h2
        rw [hr] at h3
        cases h3
      | ok j =>
        simp only [decode, hd, hr, Except.ok.injEq, Prod.mk.injEq, reduceCtorEq, false_and, exists_false, or_false,
          false_or, Input.bits.injEq]
        constructor
        · rintro ⟨rfl, rfl⟩
          exact ⟨bs, op, rest, rfl, hd, hr, rfl⟩
        · rintro ⟨bs', op', rest', rfl, h2, h3, rfl⟩
          rw [hd] at h2
          cases h2
          rw [hr] at h3
          cases h3
          exact ⟨rfl, rfl⟩
  | loop now id bus =>
    simp only [decode, reduceCtorEq, false_and, exists_false, false_or, or_false, Input.loop.injEq]
    constructor
    · intro h
      split at h
      · cases h
        exact ⟨now, id, bus, ⟨rfl, rfl, rfl⟩, ‹_›, rfl, rfl⟩
      · cases h
    · rintro ⟨_, _, _, ⟨rfl, rfl, rfl⟩, hw, rfl, rfl⟩
      simp [hw]
  | frame ch payload suffix =>
    simp only [decode, Except.ok.injEq, Prod.mk.injEq, reduceCtorEq, false_and, exists_false, false_or,
      Input.frame.injEq]
    constructor
    · rintro ⟨rfl, rfl⟩
      exact ⟨ch, payload, suffix, ⟨rfl, rfl, rfl⟩, rfl, rfl⟩
    · rintro ⟨_, _, _, ⟨rfl, rfl, rfl⟩, rfl, rfl⟩
      exact ⟨rfl, rfl⟩

/-- Applying an operation whose row is known runs that row. -/
theorem applyOp_of_row (s : State) (op : Op) (i : Instr) (h : selectRow s op = .ok i) : applyOp s op = exec i s := by
  simp [applyOp, h]

theorem applyOp_eq_next (s t : State) (op : Op) :
    applyOp s op = .next t ↔ ∃ i, selectRow s op = .ok i ∧ exec i s = .next t := by
  unfold applyOp
  cases selectRow s op <;> simp

/-- The row of a channel operation is the one its channel's state names. -/
theorem selectRow_push (s : State) (ch : ChField) (data : List Byte) (c : Channel) (h : s.channels[ch.toNat]? = some c) :
    selectRow s (.push ch data) = .ok (pushRow ch data c.state) := by
  simp [selectRow, h]

theorem selectRow_eob (s : State) (ch : ChField) (c : Channel) (h : s.channels[ch.toNat]? = some c) :
    selectRow s (.eob ch) = .ok (eobRow ch c.state) := by
  simp [selectRow, h]

theorem selectRow_ctick (s : State) (ch : ChField) (now : Nat) (c : Channel) (h : s.channels[ch.toNat]? = some c) :
    selectRow s (.ctick ch now) = .ok (ctickRow ch now c.state) := by
  simp [selectRow, h]

theorem applyAll_append (s : State) (a b : List Op) :
    applyAll s (a ++ b) = (match applyAll s a with | .next t => applyAll t b | x => x) := by
  induction a generalizing s with
  | nil => rfl
  | cons op a ih =>
    simp only [List.cons_append, applyAll]
    cases applyOp s op <;> simp [ih]

/-- The command word in front of the bits is read back. -/
theorem takeField_cmdWord (op : Op) (rest : List Bool) :
    takeField 12 (fieldBits 12 (cmdWord op).toNat ++ rest) = some ((cmdWord op).toNat, rest) :=
  takeField_fieldBits_lt 12 _ _ (cmdWord op).isLt

/-- `{a, b}` as a number (00_scope.md R11). -/
theorem toNat_concat {v w : Nat} (a : BitVec v) (b : BitVec w) : (a ++ b).toNat = a.toNat * 2 ^ w + b.toNat := by
  rw [BitVec.toNat_append, ← Nat.shiftLeft_add_eq_or_of_lt b.isLt, Nat.shiftLeft_eq]

/-- `bus_rsp` is read back (30_encoding.md R94, R97). -/
theorem decodeBus_busBits (bus : BusRsp) (rest : List Bool) (h : bus.wf = true) :
    decodeBus (busBits bus ++ rest) = .ok (bus, rest) := by
  obtain ⟨complete, data, avail, err⟩ := bus
  simp only [BusRsp.wf, lenFits, Bool.and_eq_true, decide_eq_true_eq, Bool.or_eq_true] at h
  have hc : (if complete = true then 1 else 0) < 2 ^ 1 := by split <;> decide
  simp only [busBits, List.append_assoc, decodeBus]
  rw [takeField_fieldBits_lt 1 _ _ hc]
  simp only
  rw [takeField_fieldBits_lt 16 _ _ h.1]
  simp only
  rw [takeBytes_byteBits]
  simp only
  rw [takeField_fieldBits_lt 16 _ _ avail.isLt]
  simp only
  rw [takeField_fieldBits_lt 8 _ _ err.isLt]
  cases complete
  · have : data = [] := by simpa using h.2
    simp [this]
  · simp

/-- Selecting a row does not look at what is waiting. -/
theorem selectRow_inbox (s : State) (op : Op) (q : List Input) : selectRow { s with inbox := q } op = selectRow s op := by
  cases op <;> rfl

/-- A fetch changes nothing but `inbox`. -/
theorem State.fetch_state (s t : State) (i : Instr) (h : s.fetch = .ok (i, t)) : ∃ q, t = { s with inbox := q } := by
  obtain ⟨_, _, rfl⟩ | ⟨_, _, _, _, _, rfl⟩ := (State.fetch_eq_ok _ _ _).mp h
  · exact ⟨_, rfl⟩
  · exact ⟨_, rfl⟩

end Sys2Proof.Machine
end

