-- ==== Sys2Proof/Laws/Flags.lean ====
section
/-! SUPPORT. What the scan by lowest index finds (00_scope.md R13). -/

namespace Sys2Proof.Machine

open Sys2Proof

theorem leastFrom_eq_some (q : Slave → Bool) (rs : List Slave) (i d : Nat) (r : Slave) :
    leastFrom q rs i = some (d, r) ↔
      ∃ k, d = i + k ∧ rs[k]? = some r ∧ q r = true ∧ ∀ j < k, ∀ x, rs[j]? = some x → q x = false := by
  induction rs generalizing i with
  | nil => simp [leastFrom]
  | cons x rs ih =>
    simp only [leastFrom]
    by_cases hx : q x = true
    · simp only [hx, if_true, Option.some.injEq, Prod.mk.injEq]
      constructor
      · rintro ⟨rfl, rfl⟩
        exact ⟨0, by simp, by simp, hx, by simp⟩
      · rintro ⟨k, rfl, hk, _, hl⟩
        cases k with
        | zero => simpa using hk
        | succ k => have := hl 0 (by omega) x (by simp); simp [this] at hx
    · simp only [hx, if_false, ih, Bool.false_eq_true]
      constructor
      · rintro ⟨k, rfl, hk, hq, hl⟩
        refine ⟨k + 1, by omega, by simpa using hk, hq, fun j hj y hy => ?_⟩
        cases j with
        | zero => simp at hy; subst hy; simpa using hx
        | succ j => exact hl j (by omega) y (by simpa using hy)
      · rintro ⟨k, rfl, hk, hq, hl⟩
        cases k with
        | zero => simp at hk; subst hk; exact absurd hq hx
        | succ k =>
          exact ⟨k, by omega, by simpa using hk, hq, fun j hj y hy => hl (j + 1) (by omega) y (by simpa using hy)⟩

theorem leastFrom_eq_none (q : Slave → Bool) (rs : List Slave) (i : Nat) :
    leastFrom q rs i = none ↔ ∀ r ∈ rs, q r = false := by
  induction rs generalizing i with
  | nil => simp [leastFrom]
  | cons x rs ih =>
    by_cases hx : q x = true
    · simp [leastFrom, hx]
    · simp [leastFrom, ih, hx]

/-- The scan over all records: the least index that satisfies `q`, with its record. -/
theorem leastFrom_zero (q : Slave → Bool) (rs : List Slave) (d : Nat) (r : Slave) :
    leastFrom q rs 0 = some (d, r) ↔
      rs[d]? = some r ∧ q r = true ∧ ∀ j < d, ∀ x, rs[j]? = some x → q x = false := by
  simp [leastFrom_eq_some]

end Sys2Proof.Machine
end

