-- ==== Sys2Proof/Laws/PerInstr.lean ====
section
/-! SUPPORT. What holds of each row as syntax: its command word has the bits spec/opcode_table.json fixes for it. -/

namespace Sys2Proof.Laws.TableWord

open Sys2Proof Sys2Proof.Machine

/-- A row has a command word exactly when the table gives it one, and that word, under the row's mask, is the row's
match (30_encoding.md R90, R96; spec/opcode_table.json). -/
def Statement (i : Instr) : Prop :=
  i.toOp.isSome = (tableMatch i).isSome ∧
  ∀ op w k, i.toOp = some op → tableMatch i = some (w, k) → cmdWord op &&& k = w

/-- The mask of a row with a `ch` field keeps the opcode. -/
theorem mask_low8 (h : BitVec 4) (x : BitVec 8) : (h ++ x) &&& (0xF00 : BitVec 12) = h ++ 0#8 := by
  rw [show (0xF00 : BitVec 12) = BitVec.allOnes 4 ++ 0#8 by decide, BitVec.and_append]
  simp only [BitVec.and_allOnes, BitVec.and_zero]

theorem mask_low9 (h : BitVec 3) (x : BitVec 9) : (h ++ x) &&& (0xE00 : BitVec 12) = h ++ 0#9 := by
  rw [show (0xE00 : BitVec 12) = BitVec.allOnes 3 ++ 0#9 by decide, BitVec.and_append]
  simp only [BitVec.and_allOnes, BitVec.and_zero]

theorem mask_low11 (h : BitVec 1) (x : BitVec 11) : (h ++ x) &&& (0x800 : BitVec 12) = h ++ 0#11 := by
  rw [show (0x800 : BitVec 12) = BitVec.allOnes 1 ++ 0#11 by decide, BitVec.and_append]
  simp only [BitVec.and_allOnes, BitVec.and_zero]

theorem of_word {i : Instr} {op : Op} {w k : BitVec 12} (ho : i.toOp = some op) (ht : tableMatch i = some (w, k))
    (h : cmdWord op &&& k = w) : Statement i := by
  refine ⟨by rw [ho, ht]; rfl, fun op' w' k' ho' ht' => ?_⟩
  rw [ho] at ho'
  rw [ht] at ht'
  cases ho'
  cases ht'
  exact h

theorem nop (ch : ChField) : Statement (.nop ch) := of_word rfl rfl (mask_low8 _ _)
theorem pushIdle (ch : ChField) (data : List Byte) : Statement (.pushIdle ch data) := of_word rfl rfl (mask_low8 _ _)
theorem pushCollecting (ch : ChField) (data : List Byte) : Statement (.pushCollecting ch data) := of_word rfl rfl (mask_low8 _ _)
theorem pushValidating (ch : ChField) (data : List Byte) : Statement (.pushValidating ch data) := of_word rfl rfl (mask_low8 _ _)
theorem pushDelivering (ch : ChField) (data : List Byte) : Statement (.pushDelivering ch data) := of_word rfl rfl (mask_low8 _ _)
theorem pushThrottled (ch : ChField) (data : List Byte) : Statement (.pushThrottled ch data) := of_word rfl rfl (mask_low8 _ _)
theorem eobCollecting (ch : ChField) : Statement (.eobCollecting ch) := of_word rfl rfl (mask_low8 _ _)
theorem eobIdle (ch : ChField) : Statement (.eobIdle ch) := of_word rfl rfl (mask_low8 _ _)
theorem eobValidating (ch : ChField) : Statement (.eobValidating ch) := of_word rfl rfl (mask_low8 _ _)
theorem eobDelivering (ch : ChField) : Statement (.eobDelivering ch) := of_word rfl rfl (mask_low8 _ _)
theorem eobThrottled (ch : ChField) : Statement (.eobThrottled ch) := of_word rfl rfl (mask_low8 _ _)
theorem ctickIdle (ch : ChField) (now : Nat) : Statement (.ctickIdle ch now) := of_word rfl rfl (mask_low8 _ _)
theorem ctickCollecting (ch : ChField) (now : Nat) : Statement (.ctickCollecting ch now) := of_word rfl rfl (mask_low8 _ _)
theorem ctickValidating (ch : ChField) (now : Nat) : Statement (.ctickValidating ch now) := of_word rfl rfl (mask_low8 _ _)
theorem ctickDelivering (ch : ChField) (now : Nat) : Statement (.ctickDelivering ch now) := of_word rfl rfl (mask_low8 _ _)
theorem ctickThrottled (ch : ChField) (now : Nat) : Statement (.ctickThrottled ch now) := of_word rfl rfl (mask_low8 _ _)
theorem stickIdleIdentity (now : Nat) (id : IdRsp) (bus : BusRsp) : Statement (.stickIdleIdentity now id bus) := of_word rfl rfl (by rw [cmdWord]; decide)
theorem stickIdleSelect (now : Nat) (id : IdRsp) (bus : BusRsp) : Statement (.stickIdleSelect now id bus) := of_word rfl rfl (by rw [cmdWord]; decide)
theorem stickPrepareTransmit (now : Nat) (id : IdRsp) (bus : BusRsp) : Statement (.stickPrepareTransmit now id bus) := of_word rfl rfl (by rw [cmdWord]; decide)
theorem stickTransmitting (now : Nat) (id : IdRsp) (bus : BusRsp) : Statement (.stickTransmitting now id bus) := of_word rfl rfl (by rw [cmdWord]; decide)
theorem stickAwaitingComplete (now : Nat) (id : IdRsp) (bus : BusRsp) : Statement (.stickAwaitingComplete now id bus) := of_word rfl rfl (by rw [cmdWord]; decide)
theorem stickAwaitingTimeout (now : Nat) (id : IdRsp) (bus : BusRsp) : Statement (.stickAwaitingTimeout now id bus) := of_word rfl rfl (by rw [cmdWord]; decide)
theorem stickAwaitingWait (now : Nat) (id : IdRsp) (bus : BusRsp) : Statement (.stickAwaitingWait now id bus) := of_word rfl rfl (by rw [cmdWord]; decide)
theorem stickDecoding (now : Nat) (id : IdRsp) (bus : BusRsp) : Statement (.stickDecoding now id bus) := of_word rfl rfl (by rw [cmdWord]; decide)
theorem stickAdvanceBlock (now : Nat) (id : IdRsp) (bus : BusRsp) : Statement (.stickAdvanceBlock now id bus) := of_word rfl rfl (by rw [cmdWord]; decide)
theorem stickPublishing (now : Nat) (id : IdRsp) (bus : BusRsp) : Statement (.stickPublishing now id bus) := of_word rfl rfl (by rw [cmdWord]; decide)
theorem reserved0101 (low : BitVec 8) : Statement (.reserved0101 low) := of_word rfl rfl (mask_low8 _ _)
theorem reserved011x (low : BitVec 9) : Statement (.reserved011x low) := of_word rfl rfl (mask_low9 _ _)
theorem reserved1xxx (low : BitVec 11) : Statement (.reserved1xxx low) := of_word rfl rfl (mask_low11 _ _)
theorem reset : Statement .reset := ⟨rfl, nofun⟩
theorem loop (now : Nat) (id : IdRsp) (bus : BusRsp) : Statement (.loop now id bus) := ⟨rfl, nofun⟩
theorem frame (ch : ChField) (payload suffix : List Byte) : Statement (.frame ch payload suffix) := ⟨rfl, nofun⟩

end Sys2Proof.Laws.TableWord
end

