-- ==== Sys2Proof/Laws/Time.lean ====
section
/-! SUPPORT. The time primitives (00_scope.md R12). -/

namespace Sys2Proof.Machine

open Sys2Proof

theorem two_pow_pos' (w : Nat) : 0 < 2 ^ w := Nat.pow_pos (by decide)

theorem tadd_lt (p : Params) (t d : Nat) : tadd p t d < 2 ^ p.timeW := Nat.mod_lt _ (two_pow_pos' _)

/-- The difference as an integer. -/
theorem elapsed_cast (p : Params) (now t0 : Nat) :
    (elapsed p now t0 : Int) = ((now : Int) - t0) % ((2 ^ p.timeW : Nat) : Int) := by
  have : ((2 ^ p.timeW : Nat) : Int) ≠ 0 := by exact_mod_cast (two_pow_pos' p.timeW).ne'
  exact Int.toNat_of_nonneg (Int.emod_nonneg _ this)

theorem elapsed_lt (p : Params) (now t0 : Nat) : elapsed p now t0 < 2 ^ p.timeW := by
  have h : 0 < ((2 ^ p.timeW : Nat) : Int) := by exact_mod_cast two_pow_pos' p.timeW
  have := Int.emod_lt_of_pos ((now : Int) - t0) h
  rw [← elapsed_cast] at this
  exact_mod_cast this

theorem elapsed_self (p : Params) (t : Nat) : elapsed p t t = 0 := by simp [elapsed]

/-- Equality counts as reached. -/
theorem reached_self (p : Params) (t : Nat) : reached p t t = true := by
  simp [reached, elapsed_self]

theorem reached_iff (p : Params) (now dl : Nat) : reached p now dl = true ↔ 2 * elapsed p now dl < 2 ^ p.timeW := by
  simp [reached]

/-- The contract of `BusDecode` (43_interfaces.md R166): an accepted response has `count` values. -/
theorem busDecode_ok (p : Params) (addr start count : Nat) (rsp : List Byte) (vs : List Nat)
    (h : busDecode p addr start count rsp = .ok vs) : vs.length = count ∧ ∀ v ∈ vs, v < 2 ^ p.valW := by
  unfold busDecode at h
  split at h
  · cases h
    refine ⟨by simp, fun v hv => ?_⟩
    obtain ⟨i, _, rfl⟩ := List.mem_map.mp hv
    exact Nat.mod_lt _ (two_pow_pos' _)
  · cases h

end Sys2Proof.Machine
end

