-- ==== Sys2Proof/Laws/Scheduler.lean ====
section
/-! SUPPORT. What each shared operation of the PollScheduler does to each field of the machine. -/

namespace Sys2Proof.Machine

open Sys2Proof

@[simp] theorem State.pollError_params (s : State) (i : Nat) (r : Slave) (code : Code) : (s.pollError i r code).params = s.params := rfl
@[simp] theorem State.pollError_channels (s : State) (i : Nat) (r : Slave) (code : Code) : (s.pollError i r code).channels = s.channels := rfl
@[simp] theorem State.pollError_slaves (s : State) (i : Nat) (r : Slave) (code : Code) : (s.pollError i r code).slaves = s.slaves.set i (r.failed s.params code) := rfl
@[simp] theorem State.pollError_ps (s : State) (i : Nat) (r : Slave) (code : Code) : (s.pollError i r code).ps = { s.ps.taint with state := .publishing } := rfl
@[simp] theorem State.pollError_inbox (s : State) (i : Nat) (r : Slave) (code : Code) : (s.pollError i r code).inbox = s.inbox := rfl
@[simp] theorem State.pollError_out (s : State) (i : Nat) (r : Slave) (code : Code) : (s.pollError i r code).out = s.out := rfl
@[simp] theorem State.pollError_resets (s : State) (i : Nat) (r : Slave) (code : Code) : (s.pollError i r code).resets = s.resets := rfl

@[simp] theorem State.startCycle_params (s : State) (d : Nat) (r : Slave) (now : Nat) : (s.startCycle d r now).params = s.params := rfl
@[simp] theorem State.startCycle_channels (s : State) (d : Nat) (r : Slave) (now : Nat) : (s.startCycle d r now).channels = s.channels := rfl
@[simp] theorem State.startCycle_slaves (s : State) (d : Nat) (r : Slave) (now : Nat) : (s.startCycle d r now).slaves = s.slaves.set d { r with lastPoll := now } := rfl
@[simp] theorem State.startCycle_ps (s : State) (d : Nat) (r : Slave) (now : Nat) : (s.startCycle d r now).ps = { s.ps with curSlave := d, curBlock := 0, tainted := false, state := .prepareTransmit } := rfl
@[simp] theorem State.startCycle_inbox (s : State) (d : Nat) (r : Slave) (now : Nat) : (s.startCycle d r now).inbox = s.inbox := rfl
@[simp] theorem State.startCycle_out (s : State) (d : Nat) (r : Slave) (now : Nat) : (s.startCycle d r now).out = s.out := rfl
@[simp] theorem State.startCycle_resets (s : State) (d : Nat) (r : Slave) (now : Nat) : (s.startCycle d r now).resets = s.resets := rfl

@[simp] theorem State.storeBlock_params (s : State) (r : Slave) (b : Block) (vs : List Nat) : (s.storeBlock r b vs).params = s.params := rfl
@[simp] theorem State.storeBlock_channels (s : State) (r : Slave) (b : Block) (vs : List Nat) : (s.storeBlock r b vs).channels = s.channels := rfl
@[simp] theorem State.storeBlock_slaves (s : State) (r : Slave) (b : Block) (vs : List Nat) : (s.storeBlock r b vs).slaves = s.slaves.set s.ps.curSlave (r.succeeded s.params) := rfl
@[simp] theorem State.storeBlock_ps (s : State) (r : Slave) (b : Block) (vs : List Nat) : (s.storeBlock r b vs).ps = { s.ps with map := s.ps.map.store b.start vs, rsp := [], state := .advanceBlock } := rfl
@[simp] theorem State.storeBlock_inbox (s : State) (r : Slave) (b : Block) (vs : List Nat) : (s.storeBlock r b vs).inbox = s.inbox := rfl
@[simp] theorem State.storeBlock_out (s : State) (r : Slave) (b : Block) (vs : List Nat) : (s.storeBlock r b vs).out = s.out := rfl
@[simp] theorem State.storeBlock_resets (s : State) (r : Slave) (b : Block) (vs : List Nat) : (s.storeBlock r b vs).resets = s.resets := rfl

@[simp] theorem State.rejectBlock_params (s : State) (r : Slave) (code : Code) : (s.rejectBlock r code).params = s.params := rfl
@[simp] theorem State.rejectBlock_channels (s : State) (r : Slave) (code : Code) : (s.rejectBlock r code).channels = s.channels := rfl
@[simp] theorem State.rejectBlock_slaves (s : State) (r : Slave) (code : Code) : (s.rejectBlock r code).slaves = s.slaves.set s.ps.curSlave (r.failed s.params code) := rfl
@[simp] theorem State.rejectBlock_ps (s : State) (r : Slave) (code : Code) : (s.rejectBlock r code).ps = { s.ps.taint with rsp := [], state := .publishing } := rfl
@[simp] theorem State.rejectBlock_inbox (s : State) (r : Slave) (code : Code) : (s.rejectBlock r code).inbox = s.inbox := rfl
@[simp] theorem State.rejectBlock_out (s : State) (r : Slave) (code : Code) : (s.rejectBlock r code).out = s.out := rfl
@[simp] theorem State.rejectBlock_resets (s : State) (r : Slave) (code : Code) : (s.rejectBlock r code).resets = s.resets := rfl

/-- The slave the identity branch queries is the lowest-index enabled slave without identity (R127). -/
theorem State.leastUndiscovered_eq_some (s : State) (u : Nat) (r : Slave) :
    s.leastUndiscovered = some (u, r) ↔
      s.slaves[u]? = some r ∧ r.undiscovered = true ∧ ∀ j < u, ∀ x, s.slaves[j]? = some x → x.undiscovered = false :=
  leastFrom_zero _ _ _ _

theorem State.leastUndiscovered_eq_none (s : State) :
    s.leastUndiscovered = none ↔ ∀ r ∈ s.slaves, r.undiscovered = false :=
  leastFrom_eq_none _ _ _

/-- The slave the selection branch picks is the lowest-index due one (R128). -/
theorem State.leastDue_eq_some (s : State) (now d : Nat) (r : Slave) :
    s.leastDue now = some (d, r) ↔
      s.slaves[d]? = some r ∧ r.due s.params now = true ∧
        ∀ j < d, ∀ x, s.slaves[j]? = some x → x.due s.params now = false :=
  leastFrom_zero _ _ _ _

theorem State.leastDue_eq_none (s : State) (now : Nat) :
    s.leastDue now = none ↔ ∀ r ∈ s.slaves, r.due s.params now = false :=
  leastFrom_eq_none _ _ _

theorem Slave.undiscovered_eq_true (r : Slave) : r.undiscovered = true ↔ 0 < r.cfg.interval ∧ r.idValid = false := by
  simp [Slave.undiscovered, Slave.enabled]

theorem Slave.undiscovered_eq_false (r : Slave) : r.undiscovered = false ↔ r.cfg.interval = 0 ∨ r.idValid = true := by
  rw [← Bool.not_eq_true, Slave.undiscovered_eq_true]
  cases r.idValid <;> simp

theorem Slave.due_eq_true (p : Params) (now : Nat) (r : Slave) :
    r.due p now = true ↔ 0 < r.cfg.interval ∧ r.cfg.interval ≤ elapsed p now r.lastPoll := by
  simp [Slave.due, Slave.enabled]

theorem Slave.due_eq_false (p : Params) (now : Nat) (r : Slave) :
    r.due p now = false ↔ r.cfg.interval = 0 ∨ elapsed p now r.lastPoll < r.cfg.interval := by
  rw [← Bool.not_eq_true, Slave.due_eq_true]
  omega

end Sys2Proof.Machine
end

