-- ==== Sys2Proof/Laws/Rows.lean ====
section
/-! SUPPORT. Everything a row of each machine can do when it answers a next state, said once: `exec_channel_cases` for
`PUSH`, `EOB` and `CTICK`, `exec_stick_cases` for `STICK`. Later proofs split these cases and unfold no meaning. -/

namespace Sys2Proof.Machine

open Sys2Proof

/-! ### Replacing one record of a list -/

theorem lt_of_getElem? {α : Type} {l : List α} {i : Nat} {a : α} (h : l[i]? = some a) : i < l.length :=
  (List.getElem?_eq_some_iff.mp h).1

theorem set_self {α : Type} {l : List α} {i : Nat} {a : α} (h : l[i]? = some a) : l.set i a = l := by
  obtain ⟨hi, rfl⟩ := List.getElem?_eq_some_iff.mp h
  simp

theorem getElem?_set_of_ne {α : Type} (l : List α) (i j : Nat) (a : α) (h : j ≠ i) : (l.set i a)[j]? = l[j]? := by
  rw [List.getElem?_set]
  simp [Ne.symm h]

theorem getElem?_set_at {α : Type} {l : List α} {i : Nat} {a b : α} (h : l[i]? = some b) : (l.set i a)[i]? = some a := by
  rw [List.getElem?_set]
  simp [lt_of_getElem? h]

/-- A record of the changed list is the new one at the place of the old one, or an unchanged one elsewhere. -/
theorem getElem?_set_cases {α : Type} {l : List α} {i j : Nat} {a b r q : α} (hl : l[i]? = some b) (hr : l[j]? = some r)
    (hq : (l.set i a)[j]? = some q) : (j = i ∧ q = a ∧ r = b) ∨ (j ≠ i ∧ q = r) := by
  by_cases h : j = i
  · subst h
    rw [getElem?_set_at hl] at hq
    rw [hl] at hr
    simp_all
  · rw [getElem?_set_of_ne _ _ _ _ h, hr] at hq
    exact .inr ⟨h, by simpa using hq.symm⟩

theorem mem_set_cases {α : Type} {l : List α} {i : Nat} {a x : α} (h : x ∈ l.set i a) : x = a ∨ x ∈ l :=
  (List.mem_or_eq_of_mem_set h).symm

/-! ### The Channel machine -/

/-- The ways a row of channel `k` leaves the machine (40_channel.md R117): unchanged, a burst appended, an overflow, a
failed validation, the burst sequence ended, a delivery, the throttle period ended. -/
inductive ChannelStep (s : State) (op : Op) (k : Nat) (c : Channel) : State → Prop
  | same : ChannelStep s op k c s
  | append (ch : ChField) (data : List Byte) (hop : op = .push ch data) (hn : data.length ≠ 0)
      (hfit : c.cursor + data.length ≤ c.cfg.cap) (hst : c.state = .idle ∨ c.state = .collecting) :
      ChannelStep s op k c (s.setChannel k (c.append data))
  | overflow (ch : ChField) (data : List Byte) (hop : op = .push ch data) (hbig : c.cfg.cap < c.cursor + data.length)
      (hst : c.state = .idle ∨ c.state = .collecting) :
      ChannelStep s op k c (s.framingError k c .bufferOverflow)
  | invalid (ch : ChField) (now : Nat) (err : FramingErr) (hop : op = .ctick ch now) (hst : c.state = .validating)
      (hv : c.validate = .bad err) : ChannelStep s op k c (s.framingError k c err)
  | ended (ch : ChField) (hop : op = .eob ch) (hst : c.state = .collecting) :
      ChannelStep s op k c (s.setChannel k { c with state := .validating })
  | delivered (ch : ChField) (now : Nat) (bytes : List Byte) (d : Channel) (hop : op = .ctick ch now)
      (hd : d = c ∨ d = { c with state := .delivering })
      (hst : c.state = .validating ∨ c.state = .delivering) (hb : c.buf.readBytes 0 c.cursor = some bytes) :
      ChannelStep s op k c ((s.setChannel k (d.delivered s.params now)).emit [.decode k c.cursor bytes])
  | resumed (ch : ChField) (now : Nat) (hop : op = .ctick ch now) (hst : c.state = .throttled)
      (hr : reached s.params now c.resume = true) : ChannelStep s op k c (s.setChannel k c.discard)

/-- Everything a channel row can do when it answers a next state. -/
theorem exec_channel_cases (s t : State) (i : Instr) (op : Op) (k : Nat) (hop : i.toOp = some op)
    (hu : op.unit = .channel k) (h : exec i s = .next t) :
    configWf s.config = true ∧ ∃ c, s.channels[k]? = some c ∧ ChannelStep s op k c t := by
  cases i <;> simp only [Instr.toOp, Option.some.injEq, reduceCtorEq] at hop
  all_goals
    subst hop
    simp only [Op.unit, UnitId.channel.injEq, reduceCtorEq] at hu
  all_goals subst hu
  all_goals simp only [exec, execPushIdle, execPushCollecting, execPushValidating, execPushDelivering,
    execPushThrottled, execEobIdle, execEobCollecting, execEobValidating, execEobDelivering, execEobThrottled,
    execCtickIdle, execCtickCollecting, execCtickValidating, execCtickDelivering, execCtickThrottled,
    onChannel_eq_next] at h
  all_goals obtain ⟨hw, c, hc, hst, h⟩ := h
  all_goals refine ⟨hw, c, hc, ?_⟩
  case pushIdle ch data =>
    cases h
    obtain ⟨_, e⟩ | ⟨hn, _, e⟩ | ⟨hn, hf, e⟩ := s.acceptBurst_cases ch.toNat c data <;> rw [e]
    · exact .same
    · exact .overflow ch data rfl ‹_› (.inl hst)
    · exact .append ch data rfl hn hf (.inl hst)
  case pushCollecting ch data =>
    cases h
    obtain ⟨_, e⟩ | ⟨hn, _, e⟩ | ⟨hn, hf, e⟩ := s.acceptBurst_cases ch.toNat c data <;> rw [e]
    · exact .same
    · exact .overflow ch data rfl ‹_› (.inr hst)
    · exact .append ch data rfl hn hf (.inr hst)
  case eobCollecting ch =>
    cases h
    exact .ended ch rfl hst
  case ctickValidating ch now =>
    split at h
    · cases h
    · cases h
      exact .invalid ch now _ rfl hst ‹_›
    · obtain ⟨bytes, hb, rfl⟩ := (State.deliver_eq_next _ _ _ _ _).mp h
      exact .delivered ch now bytes _ rfl (.inr rfl) (.inl hst) hb
  case ctickDelivering ch now =>
    obtain ⟨bytes, hb, rfl⟩ := (State.deliver_eq_next _ _ _ _ _).mp h
    exact .delivered ch now bytes c rfl (.inl rfl) (.inr hst) hb
  case ctickThrottled ch now =>
    cases h
    split
    · exact .resumed ch now rfl hst ‹_›
    · exact .same
  all_goals
    cases h
    exact .same

/-! ### The PollScheduler -/

/-- The ways a `STICK` leaves the machine (41_pollscheduler.md R139). -/
inductive SchedulerStep (s : State) (now : Nat) (id : IdRsp) (bus : BusRsp) : State → Prop
  | query (u : Nat) (r : Slave) (hst : s.ps.state = .idle) (hu : s.leastUndiscovered = some (u, r)) :
      SchedulerStep s now id bus ((s.setSlave u (r.answer id)).emit [.requestIdentity r.cfg.addr])
  | rest (hst : s.ps.state = .idle) (hu : s.leastUndiscovered = none) (hd : s.leastDue now = none) :
      SchedulerStep s now id bus s
  | start (d : Nat) (r : Slave) (hst : s.ps.state = .idle) (hu : s.leastUndiscovered = none)
      (hd : s.leastDue now = some (d, r)) : SchedulerStep s now id bus (s.startCycle d r now)
  | prepare (hst : s.ps.state = .prepareTransmit) :
      SchedulerStep s now id bus
        ((s.setPs { s.ps.armLine with deadline := tadd s.params now s.params.tSettle, state := .transmitting }).emit
          [.enableTx])
  | settle (hst : s.ps.state = .transmitting) (hr : reached s.params now s.ps.deadline = false) :
      SchedulerStep s now id bus s
  | send (r : Slave) (b : Block) (hst : s.ps.state = .transmitting) (hr : s.slaves[s.ps.curSlave]? = some r)
      (hb : r.cfg.blocks[s.ps.curBlock]? = some b) :
      SchedulerStep s now id bus
        ((s.setPs { s.ps.releaseLine with
            deadline := tadd s.params now s.params.tResponse, state := .awaitingResponse }).emit
          [.sendRequest r.cfg.addr b.start b.count, .disableTx])
  | latch (hst : s.ps.state = .awaitingResponse) (hc : bus.complete = true) :
      SchedulerStep s now id bus (s.setPs { s.ps with rsp := bus.data, state := .decoding })
  | timeout (r : Slave) (hst : s.ps.state = .awaitingResponse) (hc : bus.complete = false)
      (hr : s.slaves[s.ps.curSlave]? = some r) :
      SchedulerStep s now id bus (s.pollError s.ps.curSlave r (timeoutCode s.params bus))
  | wait (hst : s.ps.state = .awaitingResponse) : SchedulerStep s now id bus s
  | decoded (r : Slave) (b : Block) (vs : List Nat) (hst : s.ps.state = .decoding)
      (hr : s.slaves[s.ps.curSlave]? = some r) (hb : r.cfg.blocks[s.ps.curBlock]? = some b)
      (hd : busDecode s.params r.cfg.addr b.start b.count s.ps.rsp = .ok vs) :
      SchedulerStep s now id bus (s.storeBlock r b vs)
  | rejected (r : Slave) (b : Block) (code : Code) (hst : s.ps.state = .decoding)
      (hr : s.slaves[s.ps.curSlave]? = some r) (hb : r.cfg.blocks[s.ps.curBlock]? = some b)
      (hd : busDecode s.params r.cfg.addr b.start b.count s.ps.rsp = .err code) :
      SchedulerStep s now id bus (s.rejectBlock r code)
  | nextBlock (r : Slave) (hst : s.ps.state = .advanceBlock) (hr : s.slaves[s.ps.curSlave]? = some r)
      (hb : s.ps.curBlock + 1 < r.cfg.blocks.length) :
      SchedulerStep s now id bus (s.setPs { s.ps with curBlock := s.ps.curBlock + 1, state := .prepareTransmit })
  | lastBlock (r : Slave) (hst : s.ps.state = .advanceBlock) (hr : s.slaves[s.ps.curSlave]? = some r) :
      SchedulerStep s now id bus (s.setPs { s.ps with state := .publishing })
  | summary (r : Slave) (hst : s.ps.state = .publishing) (ht : s.ps.tainted = true)
      (hr : s.slaves[s.ps.curSlave]? = some r) :
      SchedulerStep s now id bus
        ((s.setPs { s.ps with map := [], tainted := false }).emit
          [.publishError s.ps.curSlave r.lastErr r.errCnt r.succCnt])
  | value (a v : Nat) (hst : s.ps.state = .publishing) (ht : s.ps.tainted = false)
      (hm : s.ps.map.least = some (a, v)) :
      SchedulerStep s now id bus
        ((s.setPs { s.ps with map := s.ps.map.remove a }).emit [.publish s.ps.curSlave a v])
  | identity (r : Slave) (hst : s.ps.state = .publishing) (ht : s.ps.tainted = false) (hm : s.ps.map.least = none)
      (hr : s.slaves[s.ps.curSlave]? = some r) (hf : r.idFresh = true) :
      SchedulerStep s now id bus
        ((s.setSlave s.ps.curSlave r.identityPublished).emit [.publishIdentity s.ps.curSlave r.idVal])
  | finish (r : Slave) (hst : s.ps.state = .publishing) (ht : s.ps.tainted = false) (hm : s.ps.map.least = none)
      (hr : s.slaves[s.ps.curSlave]? = some r) (hf : r.idFresh = false) :
      SchedulerStep s now id bus (s.setPs s.ps.destroyCycle)

/-- Everything a `STICK` row can do when it answers a next state. -/
theorem exec_stick_cases (s t : State) (i : Instr) (now : Nat) (id : IdRsp) (bus : BusRsp)
    (hop : i.toOp = some (.stick now id bus)) (h : exec i s = .next t) :
    configWf s.config = true ∧ SchedulerStep s now id bus t := by
  cases i <;> simp only [Instr.toOp, Option.some.injEq, reduceCtorEq, Op.stick.injEq] at hop
  all_goals obtain ⟨rfl, rfl, rfl⟩ := hop
  all_goals simp only [exec, execStickIdleIdentity, execStickIdleSelect, execStickPrepareTransmit,
    execStickTransmitting, execStickAwaitingComplete, execStickAwaitingTimeout, execStickAwaitingWait,
    execStickDecoding, execStickAdvanceBlock, execStickPublishing, onScheduler_eq_next] at h
  all_goals obtain ⟨hw, hst, hcond, h⟩ := h
  all_goals refine ⟨hw, ?_⟩
  · split at h
    · cases h
    · cases h
      exact .query _ _ hst ‹_›
  · have hn : s.leastUndiscovered = none := by simpa using hcond
    split at h
    · cases h
      exact .rest hst hn ‹_›
    · cases h
      exact .start _ _ hst hn ‹_›
  · cases h
    exact .prepare hst
  · split at h
    · simp only [withSlave_eq_next, withBlock_eq_next] at h
      obtain ⟨r, hr, b, hb, h⟩ := h
      cases h
      exact .send r b hst hr hb
    · cases h
      exact .settle hst (by simpa using ‹¬ reached s.params _ s.ps.deadline = true›)
  · cases h
    exact .latch hst hcond
  · simp only [withSlave_eq_next] at h
    obtain ⟨r, hr, h⟩ := h
    cases h
    simp only [Bool.and_eq_true, Bool.not_eq_true'] at hcond
    exact .timeout r hst hcond.1 hr
  · cases h
    exact .wait hst
  · simp only [withSlave_eq_next, withBlock_eq_next] at h
    obtain ⟨r, hr, b, hb, h⟩ := h
    split at h
    · cases h
      exact .decoded r b _ hst hr hb ‹_›
    · cases h
      exact .rejected r b _ hst hr hb ‹_›
  · simp only [withSlave_eq_next] at h
    obtain ⟨r, hr, h⟩ := h
    cases h
    split
    · exact .nextBlock r hst hr ‹_›
    · exact .lastBlock r hst hr
  · split at h
    · simp only [withSlave_eq_next] at h
      obtain ⟨r, hr, h⟩ := h
      cases h
      exact .summary r hst ‹_› hr
    · have ht : s.ps.tainted = false := by simpa using ‹¬ s.ps.tainted = true›
      split at h
      · cases h
        exact .value _ _ hst ht ‹_›
      · simp only [withSlave_eq_next] at h
        obtain ⟨r, hr, h⟩ := h
        split at h
        · cases h
          exact .identity r hst ht ‹_› hr ‹_›
        · cases h
          exact .finish r hst ht ‹_› hr (by simpa using ‹¬ r.idFresh = true›)

/-! ### Facts of one operation that several statements use -/

/-- The code of a timeout is never `0x00` (41_pollscheduler.md R132). -/
theorem timeoutCode_ne_zero (p : Params) (bus : BusRsp) : timeoutCode p bus ≠ 0x00 := by
  unfold timeoutCode
  split
  · decide
  · split
    · decide
    · assumption

/-- What the stores of a block leave in the map: an entry of before, or one at an address of the block. -/
theorem cellsPutAll_mem {α : Type} (vs : List α) (off : Nat) (m : List (Nat × α)) (x : Nat × α)
    (h : x ∈ cellsPutAll off vs m) : x ∈ m ∨ (off ≤ x.1 ∧ x.1 < off + vs.length ∧ x.2 ∈ vs) := by
  induction vs generalizing off m with
  | nil => exact .inl h
  | cons v vs ih =>
    rcases ih _ _ h with h | ⟨h1, h2, h3⟩
    · rcases cellsPut_mem _ _ _ _ h with rfl | h
      · exact .inr (by simp)
      · exact .inl h
    · simp only [List.length_cons, List.mem_cons]
      exact .inr ⟨by omega, by omega, .inr h3⟩

/-- The configuration that reset starts from is the one it leaves. -/
theorem State.atReset_config (k : Nat) (g : Config) : (State.atReset k g).config = g := by
  have hc : ∀ (l : List ChannelCfg) p, (l.zipIdx.map fun x => Channel.atReset p k x.2 x.1).map Channel.cfg = l := by
    intro l p
    exact List.ext_getElem? fun i => by simp [Channel.atReset, Function.comp_def]
  have hs : ∀ (l : List SlaveCfg) p, (l.zipIdx.map fun x => Slave.atReset p k x.2 x.1).map Slave.cfg = l := by
    intro l p
    exact List.ext_getElem? fun i => by simp [Slave.atReset, Function.comp_def]
  simp only [State.config, State.atReset, hc, hs]

end Sys2Proof.Machine
end

