-- ==== Sys2Proof/Tests/Slice0.lean ====
section
/-! SUPPORT. Tests of the model, each on one operation, and a witness for every obligation that has hypotheses: a concrete
state and operands that meet all of them. Words are written out bit by bit from 30_encoding.md; expected results are those
of 95_test_vectors.md where a vector is named. -/

namespace Sys2Proof.Tests

open Sys2Proof Sys2Proof.Machine

set_option maxRecDepth 8000

/-! ### Helpers -/

/-- A field written most significant bit first, as the presented bits. -/
def msb (l : List Nat) : List Bool := (l.map (· == 1)).reverse

/-- Channel 0 with a buffer holding `data`. -/
def chan (cap throttle : Nat) (st : ChState) (data : List Byte) (resume : Nat) : Channel :=
  ⟨Config.binaryChannel cap throttle, st, data.length, data.zipIdx.map (fun x => (x.2, x.1)), resume⟩

/-- The two slaves of `CFG-S` (95_test_vectors.md). -/
def cfg0 : SlaveCfg := ⟨0x11, 30000, [⟨0x0000, 2⟩, ⟨0x0010, 1⟩]⟩
def cfg1 : SlaveCfg := ⟨0x12, 60000, [⟨0x0100, 1⟩]⟩

/-- A slave whose identity is known. -/
def known (cfg : SlaveCfg) (lastPoll val : Nat) (fresh : Bool) (succ err : Nat) (last : Code) : Slave :=
  ⟨cfg, lastPoll, true, val, fresh, succ, err, last⟩

/-- A slave as reset leaves it, with identity register 0. -/
def unknown (cfg : SlaveCfg) : Slave := ⟨cfg, 0, false, 0, false, 0, 0, 0⟩

def restPs : Scheduler := ⟨.idle, 0, 0, [], 0, false, [], false⟩

/-- The scheduler of `CFG-S` in a state of an active cycle of slave 0. -/
def cyclePs (st : PsState) (block deadline : Nat) (map : ScratchMap) (rsp : List Byte) : Scheduler :=
  ⟨st, 0, block, map, deadline, false, rsp, st == .transmitting⟩

/-- `CFG-S` over the given channels, slave records and scheduler. -/
def machine (cs : List Channel) (rs : List Slave) (ps : Scheduler) : State :=
  ⟨Config.resetParams, cs, rs, ps, [], [], 0⟩

def slaves : List Slave := [known cfg0 30000 0xBEEF false 7 2 0xE3, known cfg1 0 0xCAFE true 0 0 0]

/-- One channel in a given state, the scheduler at rest. -/
def atCh (throttle : Nat) (st : ChState) (data : List Byte) (resume : Nat) : State :=
  machine [chan 64 throttle st data resume] slaves restPs

/-- The scheduler in a given state of slave 0's cycle, one channel at rest. -/
def atPs (st : PsState) (block deadline : Nat) (map : ScratchMap) (rsp : List Byte) : State :=
  machine [chan 64 0 .idle [] 0] slaves (cyclePs st block deadline map rsp)

/-- `F16` of 95_test_vectors.md. -/
def f16 : List Byte := [0x1B, 0x1B, 0x1B, 0x1B, 1, 1, 1, 1, 0x1B, 0x1B, 0x1B, 0x1B, 0x1A, 0, 0x12, 0x34]

/-- `RA` of 95_test_vectors.md. -/
def ra : List Byte := [0x11, 3, 4, 0, 0x0A, 0, 0x14, 0xAA, 0xBB]

def noId : IdRsp := IdRsp.none
def noRsp : BusRsp := BusRsp.pending 0 0

/-- What is looked at after an operation on a channel. -/
structure ChanSeen where
  state : ChState
  cursor : Nat
  bytes : List Byte
  events : List Event
deriving DecidableEq

/-- What a meaning leaves of channel 0, and the events it emits. -/
def chanAfter (r : Result) : Option ChanSeen :=
  match r with
  | .next t => t.channels.head?.map fun c => ⟨c.state, c.cursor, c.buf.map Prod.snd, t.out⟩
  | _ => none

/-- What a meaning leaves of the scheduler, and the events it emits. -/
def psAfter (r : Result) : Option (Scheduler × List Event) :=
  match r with
  | .next t => some (t.ps, t.out)
  | _ => none

/-- What a meaning leaves of the slave records, and the events it emits. -/
def slavesAfter (r : Result) : Option (List Slave × List Event) :=
  match r with
  | .next t => some (t.slaves, t.out)
  | _ => none

/-- A meaning answers a next state, and `look` holds of it. -/
def nextAnd (r : Result) (look : State → Bool) : Bool :=
  match r with
  | .next t => look t
  | _ => false

/-- The name of a refusal. -/
def refusalOf (r : Result) : Option Refusal :=
  match r with
  | .refused x => some x
  | _ => none

/-- The row decoded from bits in a state. -/
def row (s : State) (bs : List Bool) : Option Instr :=
  match decode s (.bits bs) with
  | .ok (i, _) => some i
  | .error _ => none

/-- The refusal of bits in a state. -/
def rowRefused (s : State) (i : Input) : Option Refusal :=
  match decode s i with
  | .ok _ => none
  | .error r => some r

/-! ### WellFormed: each check refuses an ill-formed term -/

/-- R93: `now` of 33 bits. -/
theorem test_wf_now : timeFits Config.resetParams (2 ^ 32) = false ∧ timeFits Config.resetParams (2 ^ 32 - 1) = true := by
  decide

/-- R91: a burst of 65536 bytes. -/
theorem test_wf_burst : lenFits (List.replicate (2 ^ 16) 0) = false ∧ lenFits (List.replicate (2 ^ 16 - 1) 0) = true := by
  rw [lenFits, lenFits, List.length_replicate, List.length_replicate]
  decide

/-- R94: an identity of 17 bits. -/
theorem test_wf_identity :
    IdRsp.wf Config.resetParams ⟨true, 2 ^ 16⟩ = false ∧ IdRsp.wf Config.resetParams ⟨true, 2 ^ 16 - 1⟩ = true := by
  decide

/-- R97: data with `complete = 0`. -/
theorem test_wf_response : BusRsp.wf ⟨false, [0x11], 1, 0⟩ = false ∧ BusRsp.wf ⟨true, [0x11], 1, 0⟩ = true := by decide

/-- The rows ask what their operation asks. -/
theorem test_wf_rows :
    Instr.wf Config.resetParams (.ctickIdle 0 (2 ^ 32)) = false ∧
    Instr.wf Config.resetParams (.stickIdleSelect 0 ⟨true, 2 ^ 16⟩ noRsp) = false ∧
    Instr.wf Config.resetParams (.loop 0 noId ⟨false, [0], 0, 0⟩) = false ∧
    Op.wf Config.resetParams (.stick (2 ^ 32) noId noRsp) = false := by decide

/-- 00_scope.md R10: each condition on the parameters and the channels, broken alone. -/
theorem test_config_channels :
    configWf Config.atReset = true ∧
    configWf { Config.atReset with channels := [] } = false ∧
    configWf { Config.atReset with params := { Config.resetParams with tSettle := 2 ^ 31 } } = false ∧
    configWf { Config.atReset with params := { Config.resetParams with tResponse := 2 ^ 31 } } = false ∧
    configWf { Config.atReset with params := { Config.resetParams with minFrame := 2 ^ 16 } } = false ∧
    configWf { Config.atReset with channels := [Config.binaryChannel (2 ^ 16) 0] } = false ∧
    configWf { Config.atReset with channels := [Config.binaryChannel 15 0] } = false ∧
    configWf { Config.atReset with channels := [Config.binaryChannel 16 0] } = true ∧
    configWf { Config.atReset with channels := [Config.binaryChannel 64 (2 ^ 31)] } = false ∧
    configWf { Config.atReset with channels := [{ Config.binaryChannel 64 0 with framing := .line }] } = false ∧
    configWf { Config.atReset with channels := [{ Config.binaryChannel 64 0 with sm := [] }] } = false ∧
    configWf { Config.atReset with channels := [{ Config.binaryChannel 64 0 with em := [] }] } = false ∧
    configWf { Config.atReset with channels := [{ Config.binaryChannel 64 0 with trailer := 4 }] } = false := by
  decide

/-- 00_scope.md R9, R10: each condition on the slaves, broken alone. -/
theorem test_config_slaves :
    configWf { Config.atReset with slaves := [] } = true ∧
    configWf { Config.atReset with slaves := [⟨0x100, 1, [⟨0, 1⟩]⟩] } = false ∧
    configWf { Config.atReset with slaves := [⟨0x11, 2 ^ 32, [⟨0, 1⟩]⟩] } = false ∧
    configWf { Config.atReset with slaves := [⟨0x11, 1, []⟩] } = false ∧
    configWf { Config.atReset with slaves := [⟨0x11, 0, []⟩] } = true ∧
    configWf { Config.atReset with slaves := [⟨0x11, 1, [⟨0, 0⟩]⟩] } = false ∧
    configWf { Config.atReset with slaves := [⟨0x11, 1, [⟨0xFFFF, 2⟩]⟩] } = false ∧
    configWf { Config.atReset with slaves := [⟨0x11, 1, [⟨0xFFFF, 1⟩]⟩] } = true ∧
    configWf { Config.atReset with slaves := [⟨0x11, 1, [⟨0, 9⟩]⟩] } = false ∧
    configWf { Config.atReset with slaves := [⟨0x11, 1, [⟨0, 8⟩, ⟨4, 4⟩]⟩] } = true := by decide

/-! ### Decoding: words written out from R90 to R97 -/

/-- `PUSH` on channel 0 of the bytes `1B 1B`: opcode `0001`, `len = 0x0002` (V-ENC-1). -/
def pushWord : List Bool :=
  msb [0,0,0,1, 0,0,0,0,0,0,0,0] ++ msb [0,0,0,0,0,0,0,0,0,0,0,0,0,0,1,0] ++ msb [0,0,0,1,1,0,1,1] ++
    msb [0,0,0,1,1,0,1,1]

/-- `EOB` on channel 0: opcode `0010`. -/
def eobWord : List Bool := msb [0,0,1,0, 0,0,0,0,0,0,0,0]

/-- `CTICK` on channel 0, `now = 0x000003E8`: opcode `0011` (V-ENC-1). -/
def ctickWord : List Bool :=
  msb [0,0,1,1, 0,0,0,0,0,0,0,0] ++
    msb [0,0,0,0,0,0,0,0,0,0,0,0,0,0,0,0,0,0,0,0,0,0,1,1,1,1,1,0,1,0,0,0]

/-- `STICK`, `now = 0x00007530`, every other field 0: opcode `0100` (V-ENC-1). -/
def stickWord : List Bool :=
  msb [0,1,0,0, 0,0,0,0,0,0,0,0] ++
    msb [0,0,0,0,0,0,0,0,0,0,0,0,0,0,0,0,0,1,1,1,0,1,0,1,0,0,1,1,0,0,0,0] ++
    msb [0] ++ msb [0,0,0,0,0,0,0,0,0,0,0,0,0,0,0,0] ++
    msb [0] ++ msb [0,0,0,0,0,0,0,0,0,0,0,0,0,0,0,0] ++ msb [0,0,0,0,0,0,0,0,0,0,0,0,0,0,0,0] ++
    msb [0,0,0,0,0,0,0,0]

/-- `STICK`, `now = 1`, `id_rsp = (1, 0xBEEF)`, `bus_rsp` complete with the byte `11`, `avail = 1`, `err = 0xE3`. -/
def stickFullWord : List Bool :=
  msb [0,1,0,0, 0,0,0,0,0,0,0,0] ++
    msb [0,0,0,0,0,0,0,0,0,0,0,0,0,0,0,0,0,0,0,0,0,0,0,0,0,0,0,0,0,0,0,1] ++
    msb [1] ++ msb [1,0,1,1,1,1,1,0,1,1,1,0,1,1,1,1] ++
    msb [1] ++ msb [0,0,0,0,0,0,0,0,0,0,0,0,0,0,0,1] ++ msb [0,0,0,1,0,0,0,1] ++
    msb [0,0,0,0,0,0,0,0,0,0,0,0,0,0,0,1] ++ msb [1,1,1,0,0,0,1,1]

theorem test_decode_nop : row (atCh 0 .idle [] 0) (msb [0,0,0,0, 0,0,0,0,0,0,1,1]) = some (.nop 3) := by decide

theorem test_decode_push :
    row (atCh 0 .idle [] 0) pushWord = some (.pushIdle 0 [0x1B, 0x1B]) ∧
    row (atCh 0 .collecting [1] 0) pushWord = some (.pushCollecting 0 [0x1B, 0x1B]) ∧
    row (atCh 0 .validating [1] 0) pushWord = some (.pushValidating 0 [0x1B, 0x1B]) ∧
    row (atCh 0 .delivering [1] 0) pushWord = some (.pushDelivering 0 [0x1B, 0x1B]) ∧
    row (atCh 0 .throttled [1] 0) pushWord = some (.pushThrottled 0 [0x1B, 0x1B]) := by decide

theorem test_decode_eob :
    row (atCh 0 .collecting [1] 0) eobWord = some (.eobCollecting 0) ∧
    row (atCh 0 .idle [] 0) eobWord = some (.eobIdle 0) ∧
    row (atCh 0 .validating [1] 0) eobWord = some (.eobValidating 0) ∧
    row (atCh 0 .delivering [1] 0) eobWord = some (.eobDelivering 0) ∧
    row (atCh 0 .throttled [1] 0) eobWord = some (.eobThrottled 0) := by decide

/-- V-ENC-1: `eob 3` is `0x203`, on a machine of four channels. -/
theorem test_decode_eob3 :
    row (machine (List.replicate 4 (chan 64 0 .idle [] 0)) [] restPs) (msb [0,0,1,0, 0,0,0,0,0,0,1,1]) = some (.eobIdle 3) := by
  decide

theorem test_decode_ctick :
    row (atCh 0 .idle [] 0) ctickWord = some (.ctickIdle 0 1000) ∧
    row (atCh 0 .collecting [1] 0) ctickWord = some (.ctickCollecting 0 1000) ∧
    row (atCh 0 .validating [1] 0) ctickWord = some (.ctickValidating 0 1000) ∧
    row (atCh 0 .delivering [1] 0) ctickWord = some (.ctickDelivering 0 1000) ∧
    row (atCh 0 .throttled [1] 0) ctickWord = some (.ctickThrottled 0 1000) := by decide

theorem test_decode_stick :
    row (machine [chan 64 0 .idle [] 0] [unknown cfg0] restPs) stickWord = some (.stickIdleIdentity 30000 noId noRsp) ∧
    row (atCh 0 .idle [] 0) stickWord = some (.stickIdleSelect 30000 noId noRsp) ∧
    row (atPs .prepareTransmit 0 0 [] []) stickWord = some (.stickPrepareTransmit 30000 noId noRsp) ∧
    row (atPs .transmitting 0 0 [] []) stickWord = some (.stickTransmitting 30000 noId noRsp) := by decide

theorem test_decode_stick_waiting :
    row (atPs .awaitingResponse 0 30001 [] []) stickFullWord =
      some (.stickAwaitingComplete 1 ⟨true, 0xBEEF⟩ ⟨true, [0x11], 1, 0xE3⟩) ∧
    row (atPs .awaitingResponse 0 30000 [] []) stickWord = some (.stickAwaitingTimeout 30000 noId noRsp) ∧
    row (atPs .awaitingResponse 0 30001 [] []) stickWord = some (.stickAwaitingWait 30000 noId noRsp) := by decide

theorem test_decode_stick_after :
    row (atPs .decoding 0 0 [] ra) stickWord = some (.stickDecoding 30000 noId noRsp) ∧
    row (atPs .advanceBlock 0 0 [] []) stickWord = some (.stickAdvanceBlock 30000 noId noRsp) ∧
    row (atPs .publishing 0 0 [] []) stickWord = some (.stickPublishing 30000 noId noRsp) := by decide

/-- R96 (a): the three reserved rows. -/
theorem test_decode_reserved :
    row (atCh 0 .idle [] 0) (msb [0,1,0,1, 1,0,1,0,0,1,1,1]) = some (.reserved0101 0xA7) ∧
    row (atCh 0 .idle [] 0) (msb [0,1,1,0, 1,0,1,0,0,1,1,1]) = some (.reserved011x 0x0A7) ∧
    row (atCh 0 .idle [] 0) (msb [0,1,1,1, 1,0,1,0,0,1,1,1]) = some (.reserved011x 0x1A7) ∧
    row (atCh 0 .idle [] 0) (msb [1,0,0,0, 0,0,0,0,0,0,0,1]) = some (.reserved1xxx 0x001) ∧
    row (atCh 0 .idle [] 0) (msb [1,1,1,1, 1,0,1,0,0,1,1,1]) = some (.reserved1xxx 0x7A7) := by decide

/-- The pseudo-operations are presented by name (R100). -/
theorem test_decode_pseudo :
    (match decode (atCh 0 .idle [] 0) .rst with | .ok x => some x | .error _ => none) = some (.reset, []) ∧
    (match decode (atCh 0 .idle [] 0) (.loop 5 noId noRsp) with | .ok x => some x | .error _ => none) =
      some (.loop 5 noId noRsp, []) ∧
    (match decode (atCh 0 .idle [] 0) (.frame 0 [7] [1, 2, 3]) with | .ok x => some x | .error _ => none) =
      some (.frame 0 [7] [1, 2, 3], []) := by decide

/-- V-ENC-3, and what the decoder refuses by R97. -/
theorem test_decode_refused :
    rowRefused (atCh 0 .idle [] 0) (.bits (msb [0,1,0,0, 0,0,0,0,0,0,0,1])) = some .stickWithChannel ∧
    rowRefused (atCh 0 .idle [] 0) (.bits (msb [0,0,1,0, 0,0,0,0,0,0,0,1])) = some .noSuchChannel ∧
    rowRefused (atCh 0 .idle [] 0) (.bits (msb [0,0,1,0, 0,0,0,0])) = some .truncated ∧
    rowRefused (atCh 0 .idle [] 0) (.bits (pushWord.take 40)) = some .truncated ∧
    rowRefused (atCh 0 .idle [] 0) (.bits (ctickWord.take 40)) = some .truncated ∧
    rowRefused (atCh 0 .idle [] 0) (.loop (2 ^ 32) noId noRsp) = some .operandRange := by decide

/-- R97: `complete = 0` with `len = 1`. -/
theorem test_decode_len_without_response :
    rowRefused (atCh 0 .idle [] 0) (.bits (stickWord.take 62 ++ msb [0,0,0,0,0,0,0,0,0,0,0,0,0,0,0,1] ++ List.replicate 32 false)) =
      some .lenWithoutResponse := by decide

/-- V-ENC-2: dispatch keys. -/
theorem test_dispatch_keys :
    dispatchKey (.pushCollecting 0 []) = some 0b0001001 ∧ dispatchKey (.ctickThrottled 0 0) = some 0b0011100 ∧
    dispatchKey (.stickPublishing 0 noId noRsp) = some 0b0100110 := by decide

/-- R98: `Log(0, 4)` is code `0010`, channel 0 in 8 bits, error 4 in 3 bits. -/
theorem test_event_bits :
    Event.bits Config.resetParams (.log 0 .bufferOverflow) = msb [0,0,1,0] ++ msb [0,0,0,0,0,0,0,0] ++ msb [1,0,0] ∧
    Event.bits Config.resetParams .enableTx = msb [0,0,1,1] := by decide

/-- R99: lines of the trace syntax. -/
theorem test_trace_lines :
    traceLine Config.resetParams "push 0, 1B 1B".toList = some (.bits pushWord) ∧
    traceLine Config.resetParams "eob   0".toList = some (.bits eobWord) ∧
    traceLine Config.resetParams "ctick 0, 1000".toList = some (.bits ctickWord) ∧
    traceLine Config.resetParams "stick 0x7530 ; defaults".toList = some (.bits stickWord) := by decide

theorem test_trace_options :
    traceLine Config.resetParams "loop 500, id=none, rsp=pending(4, 0xE3)".toList =
      some (.loop 500 noId (BusRsp.pending 4 0xE3)) ∧
    traceLine Config.resetParams "loop 5, id=0xBEEF, rsp=complete(11 03)".toList =
      some (.loop 5 ⟨true, 0xBEEF⟩ ⟨true, [0x11, 0x03], 2, 0⟩) ∧
    traceLine Config.resetParams "frame 1, -, 00 12 34".toList = some (.frame 1 [] [0x00, 0x12, 0x34]) ∧
    traceLine Config.resetParams "reset".toList = some .rst ∧
    traceLine Config.resetParams "eob 256".toList = none := by decide

/-! ### One operation at a time -/

/-- V-T-1 to V-T-12, over `TIME_W = 32` and 8. -/
theorem test_time_primitives :
    let p := Config.resetParams
    let q := { p with timeW := 8 }
    tadd p 0xFFFFFE00 1000 = 0x1E8 ∧ elapsed p 5 0xFFFFFFFB = 10 ∧ reached p 7 7 = true ∧
    reached p 0 0xFFFFFFFF = true ∧ reached p 0xFFFFFFFF 0 = false ∧ reached p 0x7FFFFFFF 0 = true ∧
    reached p 0x80000000 0 = false ∧ tadd q 250 10 = 4 ∧ reached q 3 4 = false ∧ reached q 131 4 = true ∧
    reached q 132 4 = false ∧ elapsed q 4 250 = 10 ∧ elapsed p 0x6530 0xFFFFF000 = 30000 := by decide

/-- V-CH-1, V-CH-2, V-CH-3. -/
theorem test_push_idle :
    let s := machine [chan 20 0 .idle [] 0] [] restPs
    chanAfter (exec (.pushIdle 0 []) s) = some ⟨.idle, 0, [], []⟩ ∧
    chanAfter (exec (.pushIdle 0 (f16 ++ [1, 2, 3, 4])) s) = some ⟨.collecting, 20, f16 ++ [1, 2, 3, 4], []⟩ ∧
    chanAfter (exec (.pushIdle 0 (f16 ++ [1, 2, 3, 4, 5])) s) = some ⟨.idle, 0, [], [.log 0 .bufferOverflow]⟩ := by
  decide

/-- V-CH-4, V-CH-5. -/
theorem test_push_collecting :
    let s := machine [chan 20 0 .collecting f16 0] [] restPs
    chanAfter (exec (.pushCollecting 0 [0x1B, 0x1B, 1]) (atCh 0 .collecting [0x1B, 0x1B] 0)) =
      some ⟨.collecting, 5, [0x1B, 0x1B, 0x1B, 0x1B, 1], []⟩ ∧
    chanAfter (exec (.pushCollecting 0 [0x1A, 0, 0xC3, 0x5D]) s) =
      some ⟨.collecting, 20, f16 ++ [0x1A, 0, 0xC3, 0x5D], []⟩ ∧
    chanAfter (exec (.pushCollecting 0 [0x1A, 0, 0xC3, 0x5D, 0]) s) = some ⟨.idle, 0, [], [.log 0 .bufferOverflow]⟩ := by
  decide

theorem test_push_dropped :
    chanAfter (exec (.pushValidating 0 [9]) (atCh 0 .validating [1] 0)) = some ⟨.validating, 1, [1], []⟩ ∧
    chanAfter (exec (.pushDelivering 0 [9]) (atCh 0 .delivering [1] 0)) = some ⟨.delivering, 1, [1], []⟩ ∧
    chanAfter (exec (.pushThrottled 0 [9]) (atCh 5 .throttled [1] 0)) = some ⟨.throttled, 1, [1], []⟩ := by decide

theorem test_eob :
    chanAfter (exec (.eobCollecting 0) (atCh 0 .collecting [1] 0)) = some ⟨.validating, 1, [1], []⟩ ∧
    chanAfter (exec (.eobIdle 0) (atCh 0 .idle [] 0)) = some ⟨.idle, 0, [], []⟩ ∧
    chanAfter (exec (.eobValidating 0) (atCh 0 .validating [1] 0)) = some ⟨.validating, 1, [1], []⟩ ∧
    chanAfter (exec (.eobDelivering 0) (atCh 0 .delivering [1] 0)) = some ⟨.delivering, 1, [1], []⟩ ∧
    chanAfter (exec (.eobThrottled 0) (atCh 5 .throttled [1] 0)) = some ⟨.throttled, 1, [1], []⟩ := by decide

theorem test_ctick_quiet :
    chanAfter (exec (.ctickIdle 0 7) (atCh 0 .idle [] 0)) = some ⟨.idle, 0, [], []⟩ ∧
    chanAfter (exec (.ctickCollecting 0 7) (atCh 0 .collecting [1] 0)) = some ⟨.collecting, 1, [1], []⟩ := by decide

/-- S2 without and with a throttle interval. -/
theorem test_ctick_delivers :
    chanAfter (exec (.ctickValidating 0 500) (atCh 0 .validating f16 0)) = some ⟨.idle, 0, [], [.decode 0 16 f16]⟩ ∧
    chanAfter (exec (.ctickValidating 0 500) (atCh 5000 .validating f16 0)) =
      some ⟨.throttled, 16, f16, [.decode 0 16 f16]⟩ := by decide

/-- S3, V-CH-8, V-CH-10, V-CH-11: which framing error. -/
theorem test_ctick_framing_errors :
    chanAfter (exec (.ctickValidating 0 500) (atCh 0 .validating (f16.take 15) 0)) =
      some ⟨.idle, 0, [], [.log 0 .frameTooShort]⟩ ∧
    chanAfter (exec (.ctickValidating 0 500) (atCh 0 .validating (f16.set 7 2) 0)) =
      some ⟨.idle, 0, [], [.log 0 .startMarkerMismatch]⟩ ∧
    chanAfter (exec (.ctickValidating 0 500) (atCh 0 .validating (f16.set 12 0x1B) 0)) =
      some ⟨.idle, 0, [], [.log 0 .endMarkerMismatch]⟩ ∧
    chanAfter (exec (.ctickValidating 0 500) (atCh 0 .validating (List.replicate 16 0) 0)) =
      some ⟨.idle, 0, [], [.log 0 .startMarkerMismatch]⟩ := by decide

theorem test_ctick_delivering :
    chanAfter (exec (.ctickDelivering 0 500) (atCh 0 .delivering [1, 2] 0)) = some ⟨.idle, 0, [], [.decode 0 2 [1, 2]]⟩ := by
  decide

/-- S4: not before the deadline, at it. -/
theorem test_ctick_throttled :
    chanAfter (exec (.ctickThrottled 0 5999) (atCh 5000 .throttled [1] 6000)) = some ⟨.throttled, 1, [1], []⟩ ∧
    chanAfter (exec (.ctickThrottled 0 6000) (atCh 5000 .throttled [1] 6000)) = some ⟨.idle, 0, [], []⟩ := by decide

/-- P4, line 1, and a query that is not answered. -/
theorem test_stick_identity :
    let s := machine [chan 64 0 .idle [] 0] [unknown cfg0, unknown cfg1] restPs
    slavesAfter (exec (.stickIdleIdentity 29990 ⟨true, 0xBEEF⟩ noRsp) s) =
      some ([known cfg0 0 0xBEEF true 0 0 0, unknown cfg1], [.requestIdentity 0x11]) ∧
    slavesAfter (exec (.stickIdleIdentity 29990 noId noRsp) s) = some ([unknown cfg0, unknown cfg1], [.requestIdentity 0x11]) := by
  decide

/-- S5: at 30000 slave 0 is due and slave 1 is not; at 60000 both are, and the lower index goes first. -/
theorem test_stick_select :
    let rs := [known cfg0 0 1 false 0 0 0, known cfg1 0 2 false 0 0 0]
    psAfter (exec (.stickIdleSelect 30000 noId noRsp) (machine [chan 64 0 .idle [] 0] rs restPs)) =
      some ({ restPs with state := .prepareTransmit }, []) ∧
    slavesAfter (exec (.stickIdleSelect 60000 noId noRsp) (machine [chan 64 0 .idle [] 0] rs restPs)) =
      some ([known cfg0 60000 1 false 0 0 0, known cfg1 0 2 false 0 0 0], []) := by decide

/-- P4, line 4. -/
theorem test_stick_prepare :
    psAfter (exec (.stickPrepareTransmit 30001 noId noRsp) (atPs .prepareTransmit 0 0 [] [])) =
      some (cyclePs .transmitting 0 30003 [] [], [.enableTx]) := by decide

/-- P4, lines 5 and 12. -/
theorem test_stick_transmitting :
    psAfter (exec (.stickTransmitting 30002 noId noRsp) (atPs .transmitting 0 30003 [] [])) =
      some (cyclePs .transmitting 0 30003 [] [], []) ∧
    psAfter (exec (.stickTransmitting 30045 noId noRsp) (atPs .transmitting 1 30045 [] [])) =
      some (cyclePs .awaitingResponse 1 30145 [] [], [.sendRequest 0x11 0x0010 1, .disableTx]) := by decide

/-- P4, line 8, also when the deadline has passed (60_exceptions.md R184). -/
theorem test_stick_complete :
    psAfter (exec (.stickAwaitingComplete 30200 noId (BusRsp.full ra)) (atPs .awaitingResponse 0 30103 [] [])) =
      some (cyclePs .decoding 0 30103 [] ra, []) := by decide

/-- S6: too few bytes; then enough bytes, with and without a code from the bus. -/
theorem test_stick_timeout :
    let s := atPs .awaitingResponse 0 30103 [] []
    slavesAfter (exec (.stickAwaitingTimeout 30103 noId noRsp) s) =
      some ([known cfg0 30000 0xBEEF false 7 3 0xE4, known cfg1 0 0xCAFE true 0 0 0], []) ∧
    slavesAfter (exec (.stickAwaitingTimeout 30103 noId (BusRsp.pending 5 0)) s) =
      some ([known cfg0 30000 0xBEEF false 7 3 0xE2, known cfg1 0 0xCAFE true 0 0 0], []) ∧
    slavesAfter (exec (.stickAwaitingTimeout 30103 noId (BusRsp.pending 5 0x02)) s) =
      some ([known cfg0 30000 0xBEEF false 7 3 0x02, known cfg1 0 0xCAFE true 0 0 0], []) := by decide

theorem test_stick_wait :
    psAfter (exec (.stickAwaitingWait 30102 noId noRsp) (atPs .awaitingResponse 0 30103 [] [])) =
      some (cyclePs .awaitingResponse 0 30103 [] [], []) := by decide

/-- P4, line 9, on the operation that stores a decoded block: what `BusDecode` answers is a premise of the vector. -/
theorem test_store_block :
    ((atPs .decoding 0 0 [] ra).storeBlock (known cfg0 30000 0xBEEF false 7 2 0xE3) ⟨0, 2⟩ [0x0A, 0x14]).ps =
      cyclePs .advanceBlock 0 0 [(0, 0x0A), (1, 0x14)] [] ∧
    ((atPs .decoding 0 0 [] ra).storeBlock (known cfg0 30000 0xBEEF false 7 2 0xE3) ⟨0, 2⟩ [0x0A, 0x14]).slaves.head? =
      some (known cfg0 30000 0xBEEF false 8 2 0xE3) := by decide

/-- V-EX-2: block 1 does not decode; what block 0 stored is still in the map, to be discarded in `Publishing`. -/
theorem test_reject_block :
    ((atPs .decoding 1 0 [(0, 0x0A)] ra).rejectBlock (known cfg0 30000 0xBEEF false 1 0 0) 0xE3).ps =
      { cyclePs .publishing 1 0 [(0, 0x0A)] [] with tainted := true } ∧
    ((atPs .decoding 1 0 [(0, 0x0A)] ra).rejectBlock (known cfg0 30000 0xBEEF false 1 0 0) 0xE3).slaves.head? =
      some (known cfg0 30000 0xBEEF false 1 1 0xE3) := by decide

/-- P4, lines 10 and 15. -/
theorem test_stick_advance :
    psAfter (exec (.stickAdvanceBlock 30042 noId noRsp) (atPs .advanceBlock 0 0 [] [])) =
      some (cyclePs .prepareTransmit 1 0 [] [], []) ∧
    psAfter (exec (.stickAdvanceBlock 30062 noId noRsp) (atPs .advanceBlock 1 0 [] [])) =
      some (cyclePs .publishing 1 0 [] [], []) := by decide

/-- P4, lines 16 and 20; S6, third line. -/
theorem test_stick_publishing :
    psAfter (exec (.stickPublishing 30063 noId noRsp) (atPs .publishing 1 0 [(0, 0x0A), (1, 0x14)] [])) =
      some (cyclePs .publishing 1 0 [(1, 0x14)] [], [.publish 0 0 0x0A]) ∧
    psAfter (exec (.stickPublishing 30067 noId noRsp) (atPs .publishing 1 30145 [] [])) =
      some ({ restPs with deadline := 30145 }, []) ∧
    psAfter (exec (.stickPublishing 30104 noId noRsp)
        (machine [chan 64 0 .idle [] 0] slaves { cyclePs .publishing 0 0 [(0, 1)] [] with tainted := true })) =
      some (cyclePs .publishing 0 0 [] [], [.publishError 0 0xE3 2 7]) := by decide

/-- P5, line 7. -/
theorem test_stick_publish_identity :
    slavesAfter (exec (.stickPublishing 60105 noId noRsp)
        (machine [chan 64 0 .idle [] 0] slaves { cyclePs .publishing 0 0 [] [] with curSlave := 1 })) =
      some ([known cfg0 30000 0xBEEF false 7 2 0xE3, known cfg1 0 0xCAFE false 0 0 0], [.publishIdentity 1 0xCAFE]) := by
  decide

theorem test_nop : psAfter (exec (.nop 9) (atPs .decoding 0 5 [(0, 1)] ra)) = some (cyclePs .decoding 0 5 [(0, 1)] ra, []) := by
  decide

theorem test_reserved :
    refusalOf (exec (.reserved0101 1) (atCh 0 .idle [] 0)) = some .reservedOpcode ∧
    refusalOf (exec (.reserved011x 1) (atCh 0 .idle [] 0)) = some .reservedOpcode ∧
    refusalOf (exec (.reserved1xxx 1) (atCh 0 .idle [] 0)) = some .reservedOpcode := by decide

/-- V-RST-1. -/
theorem test_reset :
    (match exec .reset (machine [chan 64 5 .throttled [1] 9] slaves (cyclePs .awaitingResponse 1 9 [(0, 1)] [])) with
    | .next t =>
      decide (t.ps.state = .idle ∧ t.ps.map = [] ∧ t.ps.curBlock = 0) &&
        t.slaves.all (fun r => decide (r.lastPoll = 0 ∧ r.idValid = false ∧ r.succCnt = 0 ∧ r.errCnt = 0 ∧ r.lastErr = 0)) &&
        t.channels.all (fun c => decide (c.state = .idle ∧ c.cursor = 0 ∧ c.buf = []))
    | _ => false) = true := by decide

/-- P6, line 2: the expansion of `loop` on two channels. -/
theorem test_loop :
    (match exec (.loop 1000 noId noRsp) (machine (List.replicate 2 (chan 64 0 .idle [] 0)) [] restPs) with
    | .next t => t.inbox
    | _ => []) =
      [.bits ctickWord, .bits (ctickWord.set 0 true), .bits (encodeOp Config.resetParams (.stickAt 1000))] := by decide

/-- P6, line 1: the expansion of `frame`; a suffix of two bytes is refused. -/
theorem test_frame :
    (match exec (.frame 0 [] [0, 0x12, 0x34]) (atCh 0 .idle [] 0) with
    | .next t => t.inbox
    | _ => []) = [.bits (encodeOp Config.resetParams (.push 0 f16)), .bits eobWord] ∧
    refusalOf (exec (.frame 0 [] [0, 0x12]) (atCh 0 .idle [] 0)) = some .frameSuffixLength := by decide

/-- One step from reset: a presented word runs (log 20). -/
theorem test_step_word :
    psAfter (step (State.reset.withFetchWord 16 0x400)) =
      some (State.reset.ps, [.requestIdentity 0x11]) := by rfl

/-- An ill-formed configuration has no step (00_scope.md R10). -/
theorem test_ill_formed :
    refusalOf (exec (.nop 0) (machine [chan 15 0 .idle [] 0] [] restPs)) = some .illFormedConfig ∧
    refusalOf (step (machine [] [] restPs)) = some .illFormedConfig := by decide

/-! ### Witnesses: each obligation's hypotheses are met together, each clause at a boundary -/

theorem witness_DecodeOfEncodedOperation :
    Op.wf Config.resetParams (.push 255 [0xFF]) = true ∧ Op.wf Config.resetParams (.push 0 []) = true ∧
    Op.wf Config.resetParams
      (.stick (2 ^ 32 - 1) ⟨true, 2 ^ 16 - 1⟩ ⟨true, ra, BitVec.allOnes 16, BitVec.allOnes 8⟩) = true := by decide

theorem witness_EncodeOfDecodedOperation :
    (match decodeOp Config.resetParams (pushWord ++ eobWord) with | .ok x => some x | .error _ => none) =
      some (.push 0 [0x1B, 0x1B], eobWord) := by decide

theorem witness_DecodeOfEncodedRow :
    Instr.wf (atCh 0 .collecting [1] 0).params (.pushCollecting 0 [1]) = true ∧
    selectRow (atCh 0 .collecting [1] 0) (.push 0 [1]) = .ok (.pushCollecting 0 [1]) ∧
    Instr.toOp (.pushCollecting 0 [1]) = some (.push 0 [1]) := ⟨by decide, rfl, rfl⟩

theorem witness_SelectedRowHasTheDispatchKey :
    selectRow (atCh 0 .throttled [1] 0) (.ctick 0 0) = .ok (.ctickThrottled 0 0) ∧
    Op.legal (atCh 0 .throttled [1] 0) (.ctick 0 0) := ⟨rfl, by decide⟩

/-- The lowest and the highest reserved command word; channel 1 and 255 of a machine of one; `STICK` with `ch` 1 and 255. -/
theorem witness_ReservedEncodingsHaveNoStep :
    let s := atCh 0 .idle [] 0
    (0x500 ≤ 0x500 ∧ 0x500 < 0x1000 ∧ 0x500 ≤ 0xFFF ∧ 0xFFF < 0x1000) ∧
    { s with inbox := [.bits (fieldBits 12 0x500 ++ eobWord)] }.inbox = .bits (fieldBits 12 0x500 ++ eobWord) :: [] ∧
    s.channels.length ≤ (1 : ChField).toNat ∧ s.channels.length ≤ (255 : ChField).toNat ∧
    ([0x1B] : List Byte).length < 2 ^ 16 ∧ 2 ^ 32 - 1 < 2 ^ s.params.timeW ∧
    (1 : ChField) ≠ 0 ∧ (255 : ChField) ≠ 0 := by decide

theorem witness_EventEncodingIsUnambiguous :
    Event.wf Config.resetParams (.publish 255 (2 ^ 16 - 1) (2 ^ 16 - 1)) = true ∧
    Event.wf Config.resetParams (.sendRequest 255 0 (2 ^ 16)) = true ∧
    Event.bits Config.resetParams .enableTx ++ [] = Event.bits Config.resetParams .enableTx ++ [] := by decide

theorem witness_StepRunsTheDecodedRow :
    (match decode (atCh 0 .idle [] 0) (.bits pushWord) with | .ok x => some x | .error _ => none) =
      some (.pushIdle 0 [0x1B, 0x1B], []) ∧
    rowRefused (atCh 0 .idle [] 0) (.bits []) = some .truncated ∧ (atCh 0 .idle [] 0).inbox = [] := by decide

theorem witness_StepAppliesThePresentedOperation :
    let s := { atCh 0 .idle [] 0 with inbox := [.bits (encodeOp Config.resetParams (.push 0 f16) ++ eobWord)] }
    Op.wf s.params (.push 0 f16) = true ∧ s.inbox = .bits (encodeOp s.params (.push 0 f16) ++ eobWord) :: [] :=
  ⟨by decide, rfl⟩

theorem witness_NopChangesNothing : configWf (atCh 0 .idle [] 0).config = true := by decide

theorem witness_IllFormedConfigurationHasNoStep : configWf (machine [chan 15 0 .idle [] 0] [] restPs).config = false := by
  decide

theorem witness_ConfigurationIsNeverWritten : ∃ t, exec (.nop 0) (atCh 0 .idle [] 0) = .next t := ⟨_, rfl⟩

theorem witness_TimePrimitivesAreModular : 1 ≤ Config.resetParams.timeW ∧ 1 ≤ ({ Config.resetParams with timeW := 1 } : Params).timeW := by
  decide

/-- The empty burst, a burst that fills the buffer, and one byte more. -/
theorem witness_PushInIdle :
    let s := atCh 0 .idle [] 0
    configWf s.config = true ∧ s.channels[(0 : ChField).toNat]? = some (chan 64 0 .idle [] 0) ∧
    (chan 64 0 .idle [] 0).state = .idle ∧ ([] : List Byte).length = 0 ∧
    ¬(chan 64 0 .idle [] 0).cfg.cap < (chan 64 0 .idle [] 0).cursor + (List.replicate 64 (0 : Byte)).length ∧
    (chan 64 0 .idle [] 0).cfg.cap < (chan 64 0 .idle [] 0).cursor + (List.replicate 65 (0 : Byte)).length := by decide

theorem witness_PushInCollecting :
    let s := atCh 0 .collecting f16 0
    configWf s.config = true ∧ s.channels[(0 : ChField).toNat]? = some (chan 64 0 .collecting f16 0) ∧
    (chan 64 0 .collecting f16 0).state = .collecting ∧
    ¬(chan 64 0 .collecting f16 0).cfg.cap < (chan 64 0 .collecting f16 0).cursor + (List.replicate 48 (0 : Byte)).length ∧
    (chan 64 0 .collecting f16 0).cfg.cap < (chan 64 0 .collecting f16 0).cursor + (List.replicate 49 (0 : Byte)).length := by
  decide

/-- A channel in each state the clauses of `PushElsewhereIsDropped` and `EndOfBurstElsewhereDoesNothing` name. -/
theorem witness_PushElsewhereIsDropped :
    ∀ st : ChState, configWf (atCh 5000 st f16 0).config = true ∧
      (atCh 5000 st f16 0).channels[(0 : ChField).toNat]? = some (chan 64 5000 st f16 0) ∧
      (chan 64 5000 st f16 0).state = st := by
  intro st
  cases st <;> decide

theorem witness_EndOfBurstInCollecting :
    configWf (atCh 0 .collecting f16 0).config = true ∧
    (atCh 0 .collecting f16 0).channels[(0 : ChField).toNat]? = some (chan 64 0 .collecting f16 0) ∧
    (chan 64 0 .collecting f16 0).state = .collecting := by decide

theorem witness_EndOfBurstElsewhereDoesNothing :
    ∀ st : ChState, configWf (atCh 0 st [1] 0).config = true ∧
      (atCh 0 st [1] 0).channels[(0 : ChField).toNat]? = some (chan 64 0 st [1] 0) ∧ (chan 64 0 st [1] 0).state = st := by
  intro st
  cases st <;> decide

theorem witness_TickInIdleOrCollectingDoesNothing :
    configWf (atCh 0 .idle [] 0).config = true ∧
    (atCh 0 .idle [] 0).channels[(0 : ChField).toNat]? = some (chan 64 0 .idle [] 0) ∧
    configWf (atCh 0 .collecting [1] 0).config = true ∧
    (atCh 0 .collecting [1] 0).channels[(0 : ChField).toNat]? = some (chan 64 0 .collecting [1] 0) := by decide

/-- The three failures, 15 bytes being one short of the shortest frame, and the success. -/
theorem witness_ValidationAlgorithm :
    let c := chan 64 0 .validating f16 0
    channelCfgWf Config.resetParams c.cfg = true ∧ c.buf.map Prod.fst = List.range c.cursor ∧
    ¬c.cursor < c.cfg.sm.length + c.cfg.trailer ∧ c.validate = .good ∧
    (chan 64 0 .validating (f16.take 15) 0).cursor < c.cfg.sm.length + c.cfg.trailer ∧
    (chan 64 0 .validating (f16.set 7 2) 0).buf.read 7 ≠ c.cfg.sm[7]? ∧
    (chan 64 0 .validating (f16.set 12 0x1B) 0).buf.read 12 ≠ c.cfg.em[4]? := by decide

theorem witness_TickInValidating :
    configWf (atCh 0 .validating f16 0).config = true ∧
    (atCh 0 .validating f16 0).channels[(0 : ChField).toNat]? = some (chan 64 0 .validating f16 0) ∧
    (chan 64 0 .validating f16 0).state = .validating ∧
    (chan 64 0 .validating f16 0).buf.map Prod.fst = List.range (chan 64 0 .validating f16 0).cursor ∧
    (chan 64 0 .validating f16 0).validate = .good ∧
    (chan 64 0 .validating (f16.take 15) 0).validate = .bad .frameTooShort := by decide

theorem witness_TickInDelivering :
    configWf (atCh 0 .delivering f16 0).config = true ∧
    (atCh 0 .delivering f16 0).channels[(0 : ChField).toNat]? = some (chan 64 0 .delivering f16 0) ∧
    (chan 64 0 .delivering f16 0).state = .delivering ∧
    (chan 64 0 .delivering f16 0).buf.map Prod.fst = List.range (chan 64 0 .delivering f16 0).cursor := by decide

/-- One unit before the deadline, at it, and the last value that counts as after it. -/
theorem witness_TickInThrottled :
    let s := atCh 5000 .throttled f16 6000
    configWf s.config = true ∧ s.channels[(0 : ChField).toNat]? = some (chan 64 5000 .throttled f16 6000) ∧
    (chan 64 5000 .throttled f16 6000).state = .throttled ∧ reached s.params 5999 6000 = false ∧
    reached s.params 6000 6000 = true ∧ reached s.params (6000 + 2 ^ 31 - 1) 6000 = true ∧
    reached s.params (6000 + 2 ^ 31) 6000 = false := by decide

/-- The burst that fills the buffer and the one a byte longer; a dropped burst; a delivery that throttles; a failed
validation; the end of the throttle period. -/
theorem witness_ChannelRowsFrame :
    Instr.toOp (.pushCollecting 0 [1]) = some (.push 0 [1]) ∧ Op.unit (.push 0 [1]) = .channel 0 ∧
    Instr.toOp (.ctickValidating 0 9) = some (.ctick 0 9) ∧ Op.unit (.ctick 0 9) = .channel 0 ∧
    nextAnd (exec (.pushCollecting 0 (List.replicate 48 1)) (atCh 0 .collecting f16 0))
      (·.channels[0]? = some (chan 64 0 .collecting (f16 ++ List.replicate 48 1) 0)) = true ∧
    nextAnd (exec (.pushCollecting 0 (List.replicate 49 1)) (atCh 0 .collecting f16 0))
      (·.channels[0]? = some (chan 64 0 .idle [] 0)) = true ∧
    nextAnd (exec (.pushThrottled 0 [1]) (atCh 5000 .throttled f16 6000))
      (·.channels[0]? = some (chan 64 5000 .throttled f16 6000)) = true ∧
    nextAnd (exec (.ctickValidating 0 1000) (atCh 5000 .validating f16 7))
      (·.channels[0]? = some (chan 64 5000 .throttled f16 6000)) = true ∧
    nextAnd (exec (.ctickValidating 0 1000) (atCh 5000 .validating (f16.set 7 2) 7))
      (·.channels[0]? = some (chan 64 5000 .idle [] 7)) = true ∧
    nextAnd (exec (.ctickThrottled 0 6000) (atCh 5000 .throttled f16 6000))
      (·.channels[0]? = some (chan 64 5000 .idle [] 6000)) = true := by decide

theorem witness_BurstBoundariesDoNotMatter :
    let c := chan 64 0 .collecting f16 0
    (atCh 0 .collecting f16 0).channels[(0 : ChField).toNat]? = some c ∧ (c.state = .idle ∨ c.state = .collecting) ∧
    c.cursor + (([1] : List Byte).length + (List.replicate 47 (0 : Byte)).length) ≤ c.cfg.cap := by decide

/-- An empty payload, and one that fills the buffer. -/
theorem witness_FrameRoundTrip :
    let s := atCh 5000 .idle [] 0
    let c := chan 64 5000 .idle [] 0
    configWf s.config = true ∧ s.channels[(0 : ChField).toNat]? = some c ∧ c.state = .idle ∧ c.cursor = 0 ∧ c.buf = [] ∧
    ([0, 0x12, 0x34] : List Byte).length = c.cfg.trailer - c.cfg.em.length ∧
    (c.cfg.sm ++ [] ++ c.cfg.em ++ [0, 0x12, 0x34]).length ≤ c.cfg.cap ∧
    (c.cfg.sm ++ List.replicate 48 0 ++ c.cfg.em ++ [0, 0x12, 0x34]).length ≤ c.cfg.cap := by decide

theorem witness_WrongStartMarkerIsDiscarded :
    let s := atCh 0 .validating (f16.set 7 2) 0
    let c := chan 64 0 .validating (f16.set 7 2) 0
    configWf s.config = true ∧ s.channels[(0 : ChField).toNat]? = some c ∧ c.state = .validating ∧
    c.buf.map Prod.fst = List.range c.cursor ∧ c.cfg.sm.length + c.cfg.trailer ≤ c.cursor ∧ 7 < c.cfg.sm.length ∧
    c.buf.read 7 ≠ c.cfg.sm[7]? := by decide

/-- A delivery at 1000: the last time before the deadline, the deadline, the last time of the horizon. -/
theorem witness_ThrottleLaw :
    let s := atCh 5000 .throttled f16 6000
    let c := chan 64 5000 .throttled f16 6000
    configWf s.config = true ∧ s.channels[(0 : ChField).toNat]? = some c ∧ c.state = .throttled ∧
    c.resume = tadd s.params 1000 c.cfg.throttle ∧ elapsed s.params 5999 1000 < c.cfg.throttle ∧
    c.cfg.throttle ≤ elapsed s.params 6000 1000 ∧
    2 * (elapsed s.params 6000 1000 - c.cfg.throttle) < 2 ^ s.params.timeW ∧
    2 * (elapsed s.params (6000 + 2 ^ 31 - 1) 1000 - c.cfg.throttle) < 2 ^ s.params.timeW := by decide

/-- Slave 0 is disabled, slave 1 discovered, slave 2 is the one to query. -/
theorem witness_IdentityBranch :
    let s := machine [chan 64 0 .idle [] 0] [unknown ⟨0x10, 0, []⟩, known cfg0 0 1 false 0 0 0, unknown cfg1] restPs
    configWf s.config = true ∧ s.ps.state = .idle ∧ s.slaves[2]? = some (unknown cfg1) ∧
    0 < (unknown cfg1).cfg.interval ∧ (unknown cfg1).idValid = false ∧
    ∀ j < 2, ∀ x ∈ s.slaves[j]?, x.cfg.interval = 0 ∨ x.idValid = true := by decide

/-- At 29999 nobody is due, at 30000 slave 0 is. -/
theorem witness_SelectionBranch :
    let r := known cfg0 0 1 false 0 0 0
    let s := machine [chan 64 0 .idle [] 0] [r, known cfg1 0 2 false 0 0 0] restPs
    configWf s.config = true ∧ s.ps.state = .idle ∧ (∀ x ∈ s.slaves, x.cfg.interval = 0 ∨ x.idValid = true) ∧
    s.slaves[0]? = some r ∧ 0 < r.cfg.interval ∧ r.cfg.interval ≤ elapsed s.params 30000 r.lastPoll ∧
    (∀ x ∈ s.slaves, x.cfg.interval = 0 ∨ elapsed s.params 29999 x.lastPoll < x.cfg.interval) := by decide

theorem witness_TickInPrepareTransmit :
    configWf (atPs .prepareTransmit 0 0 [] []).config = true ∧ (atPs .prepareTransmit 0 0 [] []).ps.state = .prepareTransmit := by
  decide

theorem witness_TickInTransmitting :
    let s := atPs .transmitting 1 30003 [] []
    configWf s.config = true ∧ s.ps.state = .transmitting ∧
    s.slaves[s.ps.curSlave]? = some (known cfg0 30000 0xBEEF false 7 2 0xE3) ∧ cfg0.blocks[s.ps.curBlock]? = some ⟨0x10, 1⟩ ∧
    reached s.params 30002 s.ps.deadline = false ∧ reached s.params 30003 s.ps.deadline = true := by decide

/-- A complete response counts even when the deadline has passed. -/
theorem witness_CompleteResponseIsLatched :
    let s := atPs .awaitingResponse 0 30103 [] []
    configWf s.config = true ∧ s.ps.state = .awaitingResponse ∧ (BusRsp.full ra).complete = true ∧
    reached s.params 30200 s.ps.deadline = true := by decide

/-- The deadline itself; 4, 5 and more bytes with and without a code of the bus. -/
theorem witness_ResponseTimeout :
    let s := atPs .awaitingResponse 0 30103 [] []
    configWf s.config = true ∧ s.ps.state = .awaitingResponse ∧ (BusRsp.pending 4 0).complete = false ∧
    reached s.params 30103 s.ps.deadline = true ∧ s.slaves[s.ps.curSlave]? = some (known cfg0 30000 0xBEEF false 7 2 0xE3) ∧
    (BusRsp.pending 4 0).avail.toNat < s.params.minFrame ∧ ¬(BusRsp.pending 5 0).avail.toNat < s.params.minFrame ∧
    (BusRsp.pending 5 0).err = 0x00 ∧ (BusRsp.pending 5 2).err ≠ 0x00 := by decide

theorem witness_WaitingForTheResponse :
    let s := atPs .awaitingResponse 0 30103 [] []
    configWf s.config = true ∧ s.ps.state = .awaitingResponse ∧ noRsp.complete = false ∧
    reached s.params 30102 s.ps.deadline = false := by decide

theorem witness_TickInDecoding :
    let s := atPs .decoding 1 0 [] ra
    configWf s.config = true ∧ s.ps.state = .decoding ∧
    s.slaves[s.ps.curSlave]? = some (known cfg0 30000 0xBEEF false 7 2 0xE3) ∧ cfg0.blocks[s.ps.curBlock]? = some ⟨0x10, 1⟩ := by
  decide

/-- Block 0 of two, and the last block. -/
theorem witness_TickInAdvanceBlock :
    let s := atPs .advanceBlock 0 0 [] []
    configWf s.config = true ∧ s.ps.state = .advanceBlock ∧
    s.slaves[s.ps.curSlave]? = some (known cfg0 30000 0xBEEF false 7 2 0xE3) ∧ 0 + 1 < cfg0.blocks.length ∧
    ¬1 + 1 < cfg0.blocks.length := by decide

/-- Each of the four steps: tainted; a value; a fresh identity; nothing left. -/
theorem witness_TickInPublishing :
    let s := atPs .publishing 0 0 [(3, 9), (5, 8)] []
    configWf s.config = true ∧ s.ps.state = .publishing ∧
    s.slaves[s.ps.curSlave]? = some (known cfg0 30000 0xBEEF false 7 2 0xE3) ∧ s.ps.map.wf = true ∧ s.ps.tainted = false ∧
    s.ps.map.lookup 3 = some 9 ∧ (∀ x ∈ s.ps.map, 3 ≤ x.1) ∧
    (known cfg0 0 1 true 0 0 0).idFresh = true ∧ (known cfg0 0 1 false 0 0 0).idFresh = false ∧
    ({ s.ps with tainted := true } : Scheduler).tainted = true := by decide

theorem witness_TickInPublishing_empty (b : Nat) : (atPs .publishing 0 0 [] []).ps.map.lookup b = none := rfl

/-- The premises that name a record or an entry: the queried slave, the selected slave at the time it is due, nobody due,
the block read, the tainted cycle, the least entry; each row answers a next state. -/
theorem witness_SchedulerRowsFrame :
    let undiscovered := machine [chan 64 0 .idle [] 0] [known cfg0 0 1 false 0 0 0, unknown cfg1] restPs
    let discovered := machine [chan 64 0 .idle [] 0] [known cfg0 0 1 false 0 0 0, known cfg1 0 2 false 0 0 0] restPs
    let reading := atPs .decoding 1 0 [(3, 9)] ra
    let draining := atPs .publishing 0 0 [(3, 9), (5, 8)] []
    let failed : State := { draining with ps := { draining.ps with tainted := true } }
    undiscovered.leastUndiscovered = some (1, unknown cfg1) ∧
    nextAnd (exec (.stickIdleIdentity 0 noId noRsp) undiscovered) (fun _ => true) = true ∧
    discovered.leastUndiscovered = none ∧ discovered.leastDue 30000 = some (0, known cfg0 0 1 false 0 0 0) ∧
    discovered.leastDue 29999 = none ∧
    nextAnd (exec (.stickIdleSelect 30000 noId noRsp) discovered) (fun _ => true) = true ∧
    nextAnd (exec (.stickIdleSelect 29999 noId noRsp) discovered) (fun _ => true) = true ∧
    reading.ps.state = .decoding ∧ reading.slaves[reading.ps.curSlave]? = some (known cfg0 30000 0xBEEF false 7 2 0xE3) ∧
    cfg0.blocks[reading.ps.curBlock]? = some ⟨0x10, 1⟩ ∧
    draining.ps.map.least = some (3, 9) ∧
    nextAnd (exec (.stickPublishing 0 noId noRsp) draining) (·.ps.map.lookup 5 = some 8) = true ∧
    nextAnd (exec (.stickPublishing 0 noId noRsp) failed) (·.ps.map.lookup 5 = none) = true := by decide

/-- The row that reads a block answers a next state whatever `BusDecode` answers. -/
theorem witness_SchedulerRowsFrame_decoding :
    Instr.toOp (.stickDecoding 9 noId noRsp) = some (.stick 9 noId noRsp) ∧
    ∃ t, exec (.stickDecoding 9 noId noRsp) (atPs .decoding 1 0 [(3, 9)] ra) = .next t := by
  refine ⟨rfl, ?_⟩
  rw [exec, execStickDecoding, onScheduler_of (atPs .decoding 1 0 [(3, 9)] ra) .decoding true _ (by decide) rfl rfl,
    withSlave_of _ (known cfg0 30000 0xBEEF false 7 2 0xE3) _ rfl, withBlock_of _ _ ⟨0x10, 1⟩ _ rfl]
  split <;> exact ⟨_, rfl⟩

theorem witness_CounterLaws :
    Instr.toOp (.stickAwaitingTimeout 30103 noId noRsp) = some (.stick 30103 noId noRsp) ∧
    ∃ t r q, exec (.stickAwaitingTimeout 30103 noId noRsp) (atPs .awaitingResponse 0 30103 [] []) = .next t ∧
      (atPs .awaitingResponse 0 30103 [] []).slaves[0]? = some r ∧ t.slaves[0]? = some q ∧ r.errCnt = 2 ∧ q.errCnt = 3 :=
  ⟨rfl, _, _, _, rfl, rfl, rfl, rfl, rfl⟩

theorem witness_OneSideEffectPerTick :
    Instr.toOp (.stickTransmitting 30003 noId noRsp) = some (.stick 30003 noId noRsp) ∧
    ∃ t, exec (.stickTransmitting 30003 noId noRsp) (atPs .transmitting 0 30003 [] []) = .next t ∧ t.out.length = 2 :=
  ⟨rfl, _, rfl, rfl⟩

theorem witness_TimeoutReturnsToIdle :
    let s := atPs .awaitingResponse 0 30103 [] []
    s.Inv ∧ s.ps.state = .awaitingResponse ∧ s.slaves[s.ps.curSlave]? = some (known cfg0 30000 0xBEEF false 7 2 0xE3) ∧
    noRsp.complete = false ∧ reached s.params 30103 s.ps.deadline = true ∧
    ([Op.stickAt 1, Op.stickAt 2, Op.stickAt 3]).length = 3 ∧ noRsp.avail.toNat < s.params.minFrame := by
  refine ⟨?_, ?_⟩ <;> decide

theorem witness_IdentityStarvation :
    let s := machine [chan 64 0 .idle [] 0] [unknown cfg0, known cfg1 0 2 false 0 0 0] restPs
    configWf s.config = true ∧ s.ps.state = .idle ∧ s.slaves[0]? = some (unknown cfg0) ∧
    0 < (unknown cfg0).cfg.interval ∧ (unknown cfg0).idValid = false ∧ noId.valid = false := by decide

theorem witness_ResetSetsEveryRegister : configWf (atPs .awaitingResponse 0 30103 [(0, 1)] []).config = true := by decide

theorem witness_LoopPresentsOneIteration : configWf (atCh 0 .idle [] 0).config = true := by decide

theorem witness_IterationCompletes :
    (atPs .awaitingResponse 0 30103 [] []).Inv ∧
    stickWf (atPs .awaitingResponse 0 30103 [] []).params (2 ^ 32 - 1) ⟨true, 2 ^ 16 - 1⟩ (BusRsp.full ra) = true := by decide

/-- A suffix of three bytes is right, one of two is not; the longest burst that fits its length field, and one more. -/
theorem witness_FramePresentsItsExpansion :
    let s := atCh 0 .idle [] 0
    let c := chan 64 0 .idle [] 0
    configWf s.config = true ∧ s.channels[(0 : ChField).toNat]? = some c ∧
    ([0, 0x12, 0x34] : List Byte).length = c.cfg.trailer - c.cfg.em.length ∧
    ([0, 0x12] : List Byte).length ≠ c.cfg.trailer - c.cfg.em.length ∧
    (c.cfg.sm ++ [] ++ c.cfg.em ++ [0, 0x12, 0x34]).length < 2 ^ 16 := by decide

theorem witness_FramePresentsItsExpansion_long :
    2 ^ 16 ≤ ((chan 64 0 .idle [] 0).cfg.sm ++ List.replicate (2 ^ 16 - 16) 0 ++ (chan 64 0 .idle [] 0).cfg.em ++
      [0, 0x12, 0x34]).length := by
  simp only [List.length_append, List.length_replicate]
  decide

theorem witness_InvariantIsKept :
    (atPs .publishing 0 0 [(0, 7)] []).Inv ∧ ∃ t, step (atPs .publishing 0 0 [(0, 7)] []) = .next t :=
  ⟨by decide, _, rfl⟩

theorem witness_EveryLegalOperationCompletes :
    (atCh 5000 .throttled f16 6000).Inv ∧ Op.legal (atCh 5000 .throttled f16 6000) (.push 0 f16) ∧
    Op.legal (atCh 5000 .throttled f16 6000) (.stick 0 noId noRsp) := by decide

theorem witness_NoStepFaults : (atPs .decoding 0 0 [] ra).Inv := by decide

theorem witness_EventsFitTheirFields :
    let s := { atPs .publishing 0 0 [(0, 7)] [] with inbox := [.bits stickWord] }
    s.Inv ∧ ∃ t, step s = .next t ∧ t.out = [.publish 0 0 7] := ⟨by decide, _, rfl, rfl⟩

theorem witness_DifferentUnitsCommute :
    let s := machine (List.replicate 2 (chan 64 0 .idle [] 0)) slaves restPs
    Op.unit (.push 0 [1]) ≠ Op.unit (.push 1 [2]) ∧
    ∃ t u, applyOp s (.push 0 [1]) = .next t ∧ applyOp t (.push 1 [2]) = .next u := ⟨by decide, _, _, rfl, rfl⟩

/-- Two machines that differ in their other channel, their slaves and their scheduler. -/
theorem witness_ChannelsAreIsolated :
    let s := atCh 0 .idle [] 0
    let s' := machine [chan 64 0 .idle [] 0, chan 64 5 .idle [] 9] [] { restPs with deadline := 3 }
    Op.unit (.push 0 [1]) = .channel 0 ∧ s.params = s'.params ∧ s.channels[0]? = s'.channels[0]? ∧
    (∃ t, applyOp s (.push 0 [1]) = .next t) ∧ (∃ t, applyOp s' (.push 0 [1]) = .next t) :=
  ⟨rfl, rfl, rfl, ⟨_, rfl⟩, ⟨_, rfl⟩⟩

theorem witness_SchedulerIsIsolated :
    let s := atPs .prepareTransmit 0 0 [] []
    let s' := { s with channels := [chan 20 5 .collecting [1] 7] }
    s.params = s'.params ∧ s.slaves = s'.slaves ∧ s.ps = s'.ps ∧
    (∃ t, applyOp s (.stick 1 noId noRsp) = .next t) ∧ (∃ t, applyOp s' (.stick 1 noId noRsp) = .next t) :=
  ⟨rfl, rfl, rfl, ⟨_, rfl⟩, ⟨_, rfl⟩⟩

end Sys2Proof.Tests
end

/-! ### Scope (00_scope.md R10, R12)

Without a well-formed configuration nothing steps, because every row but the reserved ones stands under `ready`; the
time primitives over the integers. -/

namespace Sys2Proof.Machine

open Sys2Proof

/-! #### The guard refuses an ill-formed configuration (R10) -/

theorem ready_of_not_wf (s : State) (k : Result) (h : configWf s.config = false) :
    ready s k = .refused .illFormedConfig := by
  simp [ready, h]

/-- Every row stands under the guard `ready`, or is reserved and has no step at all (30_encoding.md R96 (a)). -/
theorem exec_eq_ready_or_reserved (i : Instr) (s : State) :
    (∃ k, exec i s = ready s k) ∨ exec i s = .refused .reservedOpcode := by
  cases i
  case reserved0101 | reserved011x | reserved1xxx => exact .inr rfl
  all_goals exact .inl ⟨_, rfl⟩

theorem exec_refused_of_not_wf (i : Instr) (s : State) (h : configWf s.config = false) :
    ∃ r, exec i s = .refused r := by
  obtain ⟨k, hk⟩ | hres := exec_eq_ready_or_reserved i s
  · exact ⟨_, hk.trans (ready_of_not_wf s k h)⟩
  · exact ⟨_, hres⟩

theorem State.fetch_config (s t : State) (i : Instr) (h : s.fetch = .ok (i, t)) : t.config = s.config := by
  obtain ⟨q, rfl⟩ := s.fetch_state t i h
  rfl

/-- A step is a failed fetch, which refuses, or a row run in a state with the same configuration. -/
theorem step_refused_of_not_wf (s : State) (h : configWf s.config = false) : ∃ r, step s = .refused r := by
  cases hf : s.fetch with
  | error r => exact ⟨r, by simp [step, hf]⟩
  | ok x =>
    obtain ⟨i, t⟩ := x
    have ht : configWf t.config = false := by rw [s.fetch_config t i hf, h]
    simpa [step, hf] using exec_refused_of_not_wf i t ht

/-- Settles O14: every row is refused by its guard or as reserved, and a fetch keeps the configuration. -/
theorem illFormedConfigurationHasNoStep : Obligations.IllFormedConfigurationHasNoStep :=
  ⟨step_refused_of_not_wf, exec_refused_of_not_wf⟩

/-! #### Time (R12) -/

theorem tadd_cast (p : Params) (t d : Nat) :
    (tadd p t d : Int) = ((t : Int) + d) % ((2 ^ p.timeW : Nat) : Int) := by
  simp [tadd]

/-- With at least one bit of time the modulus is even, so doubling the difference and halving the modulus agree. -/
theorem reached_iff_lt_half (p : Params) (now dl : Nat) (hw : 1 ≤ p.timeW) :
    reached p now dl = true ↔ elapsed p now dl < 2 ^ p.timeW / 2 := by
  have heven : 2 ∣ 2 ^ p.timeW := dvd_pow_self 2 (by omega)
  rw [reached_iff, Nat.lt_div_iff_mul_lt_of_dvd two_ne_zero heven, mul_comm]

/-- Settles O16: `elapsed` is the integer difference modulo `M`, and `reached` compares it with `M / 2`. -/
theorem timePrimitivesAreModular : Obligations.TimePrimitivesAreModular := by
  intro p t d now t0 dl
  refine ⟨tadd_cast p t d, elapsed_cast p now t0, fun hw => ?_⟩
  rw [reached_iff_lt_half p now dl hw, ← elapsed_cast, Int.ofNat_lt]

end Sys2Proof.Machine

/-! ### The state and its invariants (10_state.md)

What any row can do, said once (`exec_cases`); no row writes the configuration (R53); the invariant of R30 and R44 to
R48 at reset and after every step; a channel operation looks at its own record only (R25). -/

namespace Sys2Proof.Machine

open Sys2Proof

/-! #### Everything a row can do -/

/-- The ways a row leaves the machine: nothing happens, reset, the expansion of a pseudo-operation put before the
waiting inputs, a step of one channel, a step of the scheduler. -/
inductive RowStep (s : State) (i : Instr) : State → Prop
  | nothing : RowStep s i s
  | reset : RowStep s i s.applyReset
  | expanded (is : List Input) : RowStep s i (s.present is)
  | channel (op : Op) (k : Nat) (c : Channel) (t : State) (hop : i.toOp = some op) (hu : op.unit = .channel k)
      (hc : s.channels[k]? = some c) (h : ChannelStep s op k c t) : RowStep s i t
  | scheduler (now : Nat) (id : IdRsp) (bus : BusRsp) (t : State) (hop : i.toOp = some (.stick now id bus))
      (h : SchedulerStep s now id bus t) : RowStep s i t

/-- A row without an operation is reset, `loop` or `frame`. -/
theorem exec_pseudo_cases (s t : State) (i : Instr) (hop : i.toOp = none) (h : exec i s = .next t) :
    configWf s.config = true ∧ RowStep s i t := by
  cases i <;> simp only [Instr.toOp, reduceCtorEq] at hop
  case reset =>
    obtain ⟨hw, h⟩ := (ready_eq_next _ _ _).mp h
    cases h
    exact ⟨hw, .reset⟩
  case loop now id bus =>
    obtain ⟨hw, h⟩ := (ready_eq_next _ _ _).mp h
    cases h
    exact ⟨hw, .expanded _⟩
  case frame ch payload suffix =>
    obtain ⟨hw, h⟩ := (ready_eq_next _ _ _).mp h
    refine ⟨hw, ?_⟩
    split at h
    · cases h
    · split at h
      · cases h
      · split at h
        · cases h
        · cases h
          exact .expanded _

/-- A row of an operation that addresses no unit is `nop`: the reserved ones have no step (30_encoding.md R96 (a)). -/
theorem exec_nobody_cases (s t : State) (i : Instr) (op : Op) (hop : i.toOp = some op) (hu : op.unit = .nobody)
    (h : exec i s = .next t) : configWf s.config = true ∧ t = s := by
  cases i <;> simp only [Instr.toOp, Option.some.injEq, reduceCtorEq] at hop <;> subst hop <;>
    simp only [Op.unit, reduceCtorEq] at hu
  case nop ch =>
    obtain ⟨hw, h⟩ := (ready_eq_next _ _ _).mp h
    cases h
    exact ⟨hw, rfl⟩
  case reserved0101 | reserved011x | reserved1xxx => cases h

theorem Op.unit_eq_scheduler {op : Op} (h : op.unit = .scheduler) : ∃ now id bus, op = .stick now id bus := by
  cases op <;> simp only [Op.unit, reduceCtorEq] at h
  exact ⟨_, _, _, rfl⟩

/-- Everything a row can do when it answers a next state. -/
theorem exec_cases (s t : State) (i : Instr) (h : exec i s = .next t) : configWf s.config = true ∧ RowStep s i t := by
  cases hop : i.toOp with
  | none => exact exec_pseudo_cases s t i hop h
  | some op =>
    cases hu : op.unit with
    | channel k =>
      obtain ⟨hw, c, hc, hstep⟩ := exec_channel_cases s t i op k hop hu h
      exact ⟨hw, .channel op k c t hop hu hc hstep⟩
    | scheduler =>
      obtain ⟨now, id, bus, rfl⟩ := Op.unit_eq_scheduler hu
      obtain ⟨hw, hstep⟩ := exec_stick_cases s t i now id bus hop h
      exact ⟨hw, .scheduler now id bus t hop hstep⟩
    | nobody =>
      obtain ⟨hw, rfl⟩ := exec_nobody_cases s t i op hop hu h
      exact ⟨hw, .nothing⟩

/-! #### No row writes the configuration (R53) -/

@[simp] theorem State.applyReset_config (s : State) : s.applyReset.config = s.config :=
  State.atReset_config (s.resets + 1) s.config

theorem ChannelStep.config {s t : State} {op : Op} {k : Nat} {c : Channel} (hc : s.channels[k]? = some c)
    (h : ChannelStep s op k c t) : t.config = s.config := by
  cases h with
  | same => rfl
  | append | overflow | invalid | ended | resumed => exact s.setChannel_config k c _ hc rfl
  | delivered ch now bytes d hop hd =>
    refine s.setChannel_config k c _ hc ?_
    obtain rfl | rfl := hd <;> simp

theorem SchedulerStep.config {s t : State} {now : Nat} {id : IdRsp} {bus : BusRsp}
    (h : SchedulerStep s now id bus t) : t.config = s.config := by
  cases h with
  | query u r hst hu =>
    exact s.setSlave_config u r _ ((s.leastUndiscovered_eq_some u r).mp hu).1 (r.answer_cfg id)
  | start d r hst hu hd => exact s.setSlave_config d r _ ((s.leastDue_eq_some now d r).mp hd).1 rfl
  | timeout r _ _ hr | decoded r _ _ _ hr | rejected r _ _ _ hr | identity r _ _ _ hr =>
    exact s.setSlave_config _ r _ hr rfl
  | rest | prepare | settle | send | latch | wait | nextBlock | lastBlock | summary | value | finish => rfl

/-- Settles O15: a channel or scheduler step replaces records by ones of the same configuration, reset starts from the
configuration it finds, and no other row touches a record. -/
theorem configurationIsNeverWritten : Obligations.ConfigurationIsNeverWritten := by
  intro i s t h
  obtain ⟨_, hstep⟩ := exec_cases s t i h
  cases hstep with
  | nothing => rfl
  | reset => exact s.applyReset_config
  | expanded is => rfl
  | channel op k c _ hop hu hc hstep => exact hstep.config hc
  | scheduler now id bus _ hop hstep => exact hstep.config

/-! #### Decoded operands fit their fields (30_encoding.md R91 to R94, R97) -/

theorem decodePush_wf (p : Params) (ch : ChField) (bs rest : List Bool) (op : Op)
    (h : decodePush ch bs = .ok (op, rest)) : op.wf p = true := by
  unfold decodePush at h
  split at h
  · cases h
  · rename_i len _ hlen
    split at h
    · cases h
    · rename_i data _ hdata
      cases h
      have hlt := ((takeField_eq_some _ _ _ _).mp hlen).1
      have hl := ((takeBytes_eq_some _ _ _ _).mp hdata).1
      simpa [Op.wf, lenFits, hl] using hlt

theorem decodeCtick_wf (p : Params) (ch : ChField) (bs rest : List Bool) (op : Op)
    (h : decodeCtick p ch bs = .ok (op, rest)) : op.wf p = true := by
  unfold decodeCtick at h
  split at h
  · cases h
  · rename_i now _ hnow
    cases h
    simpa [Op.wf, timeFits] using ((takeField_eq_some _ _ _ _).mp hnow).1

/-- A response of a read `bus_rsp` is as long as its length field says, and empty where the bit `complete` is 0. -/
theorem decodeBus_wf (bs rest : List Bool) (bus : BusRsp) (h : decodeBus bs = .ok (bus, rest)) : bus.wf = true := by
  unfold decodeBus at h
  split at h
  · cases h
  rename_i complete _ hcomplete
  split at h
  · cases h
  rename_i len _ hlen
  split at h
  · cases h
  rename_i hempty
  split at h
  · cases h
  rename_i data _ hdata
  split at h
  · cases h
  split at h
  · cases h
  cases h
  have hc : complete < 2 ^ 1 := ((takeField_eq_some _ _ _ _).mp hcomplete).1
  have hlt := ((takeField_eq_some _ _ _ _).mp hlen).1
  have hl := ((takeBytes_eq_some _ _ _ _).mp hdata).1
  have hd : complete = 1 ∨ data = [] := by
    rw [← List.length_eq_zero_iff]
    omega
  simpa [BusRsp.wf, lenFits, hl, hd] using hlt

theorem decodeStick_wf (p : Params) (bs rest : List Bool) (op : Op) (h : decodeStick p bs = .ok (op, rest)) :
    op.wf p = true := by
  unfold decodeStick at h
  split at h
  · cases h
  rename_i now _ hnow
  split at h
  · cases h
  split at h
  · cases h
  rename_i val _ hval
  split at h
  · cases h
  rename_i bus _ hbus
  cases h
  have hn := ((takeField_eq_some _ _ _ _).mp hnow).1
  have hv := ((takeField_eq_some _ _ _ _).mp hval).1
  simp [Op.wf, stickWf, timeFits, IdRsp.wf, hn, hv, decodeBus_wf _ _ _ hbus]

/-- What the decoder reads has operands that fit their fields. -/
theorem decodeOp_wf (p : Params) (bs rest : List Bool) (op : Op) (h : decodeOp p bs = .ok (op, rest)) :
    op.wf p = true := by
  unfold decodeOp at h
  split at h
  · cases h
  simp only at h
  split at h
  case h_2 => exact decodePush_wf _ _ _ _ _ h
  case h_4 => exact decodeCtick_wf _ _ _ _ _ h
  case h_5 =>
    split at h
    · exact decodeStick_wf _ _ _ _ h
    · cases h
  all_goals
    cases h
    rfl

/-- The row that is selected belongs to the operation. -/
theorem selectRow_toOp (s : State) (op : Op) (i : Instr) (h : selectRow s op = .ok i) : i.toOp = some op := by
  cases op <;> simp only [selectRow] at h
  case push | eob | ctick =>
    split at h
    · cases h
    · rename_i c _
      cases h
      cases c.state <;> rfl
  case stick now id bus =>
    cases h
    unfold stickRow
    split
    case h_1 => split <;> rfl
    case h_4 =>
      split
      · rfl
      · split <;> rfl
    all_goals rfl
  all_goals
    cases h
    rfl

theorem Instr.wf_of_toOp (p : Params) {i : Instr} {op : Op} (h : i.toOp = some op) : i.wf p = op.wf p := by
  cases i <;> cases h <;> rfl

/-- The row a fetch answers has operands that fit their fields. -/
theorem State.fetch_row_wf (s t : State) (i : Instr) (h : s.fetch = .ok (i, t)) : i.wf s.params = true := by
  obtain ⟨_, rfl, _⟩ | ⟨inp, q, left, _, hd, _⟩ := (State.fetch_eq_ok s t i).mp h
  · rfl
  · obtain ⟨_, rfl, _⟩ | ⟨bs, op, rest, _, hop, hrow, _⟩ | ⟨now, id, bus, _, hwf, rfl, _⟩ | ⟨_, _, _, _, rfl, _⟩ :=
      (decode_eq_ok s inp i left).mp hd
    · rfl
    · rw [Instr.wf_of_toOp _ (selectRow_toOp s op i hrow)]
      exact decodeOp_wf _ _ _ _ hop
    · exact hwf
    · rfl

theorem step_eq_next (s t : State) : step s = .next t ↔ ∃ i u, s.fetch = .ok (i, u) ∧ exec i u = .next t := by
  unfold step
  cases s.fetch with
  | error r => simp
  | ok x => simp [Prod.ext_iff]

/-! #### The invariant of a channel record (R28 to R30) -/

theorem Channel.Inv.discard {p : Params} {c : Channel} (h : c.Inv p) : c.discard.Inv p := by
  obtain ⟨-, -, -, -, -, -, hresume⟩ := h
  exact ⟨Nat.zero_le _, fun _ => rfl, nofun, nofun, nofun, rfl, hresume⟩

theorem Channel.Inv.append {p : Params} {c : Channel} {data : List Byte} (h : c.Inv p) (hn : data.length ≠ 0)
    (hfit : c.cursor + data.length ≤ c.cfg.cap) : (c.append data).Inv p := by
  obtain ⟨-, -, -, -, -, hbuf, hresume⟩ := h
  refine ⟨hfit, nofun, fun _ => ?_, nofun, nofun, cellsPutAll_keys data c.cursor c.buf hbuf, hresume⟩
  rw [Channel.append_cursor]
  omega

theorem Channel.Inv.ended {p : Params} {c : Channel} (h : c.Inv p) (hst : c.state = .collecting) :
    Channel.Inv p { c with state := .validating } := by
  obtain ⟨hcap, -, hcollecting, -, -, hbuf, hresume⟩ := h
  exact ⟨hcap, nofun, nofun, fun _ => hcollecting hst, nofun, hbuf, hresume⟩

/-- A delivery leaves the invariant whether or not the record is already marked as delivering. -/
theorem Channel.Inv.delivered {p : Params} {c : Channel} (h : c.Inv p) (st : ChState) (now : Nat) :
    (Channel.delivered p { c with state := st } now).Inv p := by
  obtain ⟨_, e⟩ | ⟨_, e⟩ := Channel.delivered_cases p { c with state := st } now <;> rw [e]
  · obtain ⟨hcap, -, -, -, -, hbuf, -⟩ := h
    exact ⟨hcap, nofun, nofun, nofun, nofun, hbuf, tadd_lt p now _⟩
  · exact h.discard

/-! #### The invariant of a slave record (R33 to R37, R48 (e)) -/

theorem Slave.Inv.answer {p : Params} {r : Slave} {id : IdRsp} (h : r.Inv p) (hid : id.wf p = true) :
    (r.answer id).Inv p := by
  unfold Slave.answer
  split
  · obtain ⟨hpoll, -, -, hsucc, herr⟩ := h
    exact ⟨hpoll, by simpa [IdRsp.wf] using hid, fun _ => rfl, hsucc, herr⟩
  · exact h

theorem Slave.answer_idValid {r : Slave} (id : IdRsp) (h : r.idValid = true) : (r.answer id).idValid = true := by
  unfold Slave.answer
  split
  · rfl
  · exact h

theorem Slave.Inv.polled {p : Params} {r : Slave} {now : Nat} (h : r.Inv p) (hnow : timeFits p now = true) :
    Slave.Inv p { r with lastPoll := now } := by
  obtain ⟨-, hrest⟩ := h
  exact ⟨by simpa [timeFits] using hnow, hrest⟩

theorem Slave.Inv.failed {p : Params} {r : Slave} (h : r.Inv p) (code : Code) : (r.failed p code).Inv p := by
  obtain ⟨hpoll, hid, hfresh, hsucc, -⟩ := h
  exact ⟨hpoll, hid, hfresh, hsucc, Nat.mod_lt _ (two_pow_pos' _)⟩

theorem Slave.Inv.succeeded {p : Params} {r : Slave} (h : r.Inv p) : (r.succeeded p).Inv p := by
  obtain ⟨hpoll, hid, hfresh, -, herr⟩ := h
  exact ⟨hpoll, hid, hfresh, Nat.mod_lt _ (two_pow_pos' _), herr⟩

theorem Slave.Inv.identityPublished {p : Params} {r : Slave} (h : r.Inv p) : r.identityPublished.Inv p := by
  obtain ⟨hpoll, hid, -, hsucc, herr⟩ := h
  exact ⟨hpoll, hid, nofun, hsucc, herr⟩

/-! #### The invariant of the scheduler's registers (R44 to R48) -/

/-- What the scheduler's invariant says of the scratch map. -/
def ScratchMap.Fits (p : Params) (m : ScratchMap) : Prop :=
  m.wf = true ∧ (∀ x ∈ m, x.2 < 2 ^ p.valW) ∧ m.length ≤ p.mapCap

theorem ScratchMap.fits_nil (p : Params) : ScratchMap.Fits p [] := ⟨rfl, nofun, Nat.zero_le _⟩

theorem ScratchMap.mem_remove {m : ScratchMap} {a : Nat} {x : Nat × Nat} (h : x ∈ m.remove a) : x ∈ m :=
  cellsErase_mem a m x h

theorem ScratchMap.length_remove_le (m : ScratchMap) (a : Nat) : (m.remove a).length ≤ m.length := by
  induction m with
  | nil => exact Nat.le_refl _
  | cons y rest ih =>
    simp only [ScratchMap.remove, cellsErase] at ih ⊢
    split <;> simp only [List.length_cons] <;> omega

theorem ScratchMap.Fits.remove {p : Params} {m : ScratchMap} (h : m.Fits p) (a : Nat) : (m.remove a).Fits p := by
  obtain ⟨hwf, hval, hlen⟩ := h
  exact ⟨m.remove_wf a hwf, fun x hx => hval x (ScratchMap.mem_remove hx), (m.length_remove_le a).trans hlen⟩

/-- A map in canonical form whose addresses all belong to the slave has room in `MAP_CAP` (00_scope.md R10 (e)). -/
theorem ScratchMap.length_le_mapCap {p : Params} {c : SlaveCfg} {m : ScratchMap} (hc : slaveCfgWf p c = true)
    (hwf : m.wf = true) (haddr : ∀ x ∈ m, x.1 ∈ slaveAddrs c) : m.length ≤ p.mapCap := by
  have hnodup : (m.map Prod.fst).Nodup := ((cellsWf_iff_pairwise m).mp hwf).imp Nat.ne_of_lt
  have hmem : ∀ a ∈ m.map Prod.fst, a ∈ slaveAddrs c := by
    intro a ha
    obtain ⟨x, hx, rfl⟩ := List.mem_map.mp ha
    exact haddr x hx
  obtain ⟨-, -, -, -, -, hcap⟩ := (slaveCfgWf_iff p c).mp hc
  calc m.length = (m.map Prod.fst).length := by simp
    _ ≤ (distinct (slaveAddrs c)).length := length_le_distinct _ _ hnodup hmem
    _ ≤ p.mapCap := hcap

/-- Storing the values of a block adds addresses of that block only (R48 (d)). -/
theorem ScratchMap.store_mem_slaveAddrs {c : SlaveCfg} {b : Block} {m : ScratchMap} {vs : List Nat} (hb : b ∈ c.blocks)
    (hlen : vs.length = b.count) (haddr : ∀ x ∈ m, x.1 ∈ slaveAddrs c) :
    ∀ x ∈ m.store b.start vs, x.1 ∈ slaveAddrs c := by
  intro x hx
  obtain hx | ⟨hlo, hhi, -⟩ := cellsPutAll_mem vs b.start m x hx
  · exact haddr x hx
  · exact (mem_slaveAddrs c x.1).mpr ⟨b, hb, hlo, hlen ▸ hhi⟩

theorem ScratchMap.Fits.store {p : Params} {c : SlaveCfg} {b : Block} {m : ScratchMap} {vs : List Nat} (h : m.Fits p)
    (hc : slaveCfgWf p c = true) (hb : b ∈ c.blocks) (hlen : vs.length = b.count) (hvs : ∀ v ∈ vs, v < 2 ^ p.valW)
    (haddr : ∀ x ∈ m, x.1 ∈ slaveAddrs c) : (m.store b.start vs).Fits p := by
  obtain ⟨hwf, hval, -⟩ := h
  have hwf' := m.store_wf b.start vs hwf
  refine ⟨hwf', fun x hx => ?_, ScratchMap.length_le_mapCap hc hwf' (ScratchMap.store_mem_slaveAddrs hb hlen haddr)⟩
  obtain hx | ⟨-, -, hx⟩ := cellsPutAll_mem vs b.start m x hx
  exacts [hval x hx, hvs _ hx]

namespace Scheduler.Inv

variable {p : Params} {ps : Scheduler}

theorem map_fits (h : ps.Inv p) : ps.map.Fits p := by
  obtain ⟨-, hwf, hval, hlen, -⟩ := h
  exact ⟨hwf, hval, hlen⟩

theorem deadline_lt (h : ps.Inv p) : ps.deadline < 2 ^ p.timeW := by
  obtain ⟨-, -, -, -, -, -, -, -, hdeadline⟩ := h
  exact hdeadline

theorem rests (h : ps.Inv p) (hst : ps.state = .idle) : ps.Rests := by
  obtain ⟨hrests, -⟩ := h
  exact hrests hst

theorem txen_eq (h : ps.Inv p) : ps.txen = decide (ps.state = .transmitting) := by
  obtain ⟨-, -, -, -, htxen, -⟩ := h
  rw [Bool.eq_iff_iff, decide_eq_true_eq]
  exact htxen

theorem tainted_eq_false (h : ps.Inv p) (hst : ps.state ≠ .publishing) : ps.tainted = false := by
  obtain ⟨-, -, -, -, -, htainted, -⟩ := h
  exact Bool.eq_false_iff.mpr (mt htainted hst)

theorem rsp_eq_nil (h : ps.Inv p) (hst : ps.state ≠ .decoding) : ps.rsp = [] := by
  obtain ⟨-, -, -, -, -, -, hrsp, -⟩ := h
  exact not_ne_iff.mp (mt hrsp hst)

/-- The registers of an active cycle with an empty latch, which is every state but `Decoding`. -/
theorem of_active (hst : ps.state ≠ .idle) (hmap : ps.map.Fits p) (hdl : ps.deadline < 2 ^ p.timeW)
    (htx : ps.txen = decide (ps.state = .transmitting)) (hta : ps.tainted = true → ps.state = .publishing)
    (hrsp : ps.rsp = []) : ps.Inv p := by
  obtain ⟨hwf, hval, hlen⟩ := hmap
  refine ⟨fun h => absurd h hst, hwf, hval, hlen, by simp [htx], hta, fun h => absurd hrsp h, ?_, hdl⟩
  simp [hrsp]

end Scheduler.Inv

/-! #### The invariant of the machine under each register write -/

/-- The waiting inputs are no registers. -/
theorem State.inv_inbox (s : State) (q : List Input) : State.Inv { s with inbox := q } ↔ s.Inv := Iff.rfl

theorem State.inv_present (s : State) (is : List Input) : (s.present is).Inv ↔ s.Inv := Iff.rfl

theorem Slave.enabled_eq_true (r : Slave) : r.enabled = true ↔ 0 < r.cfg.interval := by simp [Slave.enabled]

/-- The cycle goes on when a slave record changes without losing its identity. -/
theorem State.CycleInv.setSlave {s : State} {i : Nat} {r q : Slave} (h : s.CycleInv) (hr : s.slaves[i]? = some r)
    (hcfg : q.cfg = r.cfg) (hid : r.idValid = true → q.idValid = true) : (s.setSlave i q).CycleInv := by
  obtain ⟨x, hx, hen, hval, hblk, hmap⟩ := h
  by_cases hi : s.ps.curSlave = i
  · subst hi
    obtain rfl : r = x := Option.some.inj (hr.symm.trans hx)
    refine ⟨q, getElem?_set_at hr, ?_, hid hval, hcfg ▸ hblk, hcfg ▸ hmap⟩
    rw [Slave.enabled_eq_true] at hen ⊢
    exact hcfg ▸ hen
  · exact ⟨x, (getElem?_set_of_ne s.slaves i _ q hi).trans hx, hen, hval, hblk, hmap⟩

namespace State.Inv

variable {s : State}

theorem setChannel {i : Nat} {c d : Channel} (h : s.Inv) (hc : s.channels[i]? = some c) (hcfg : d.cfg = c.cfg)
    (hd : d.Inv s.params) : (s.setChannel i d).Inv := by
  obtain ⟨hw, hch, hsl, hps, hcyc⟩ := h
  refine ⟨(s.setChannel_config i c d hc hcfg).symm ▸ hw, fun x hx => ?_, hsl, hps, hcyc⟩
  obtain rfl | hx := mem_set_cases hx
  exacts [hd, hch x hx]

theorem setSlave {i : Nat} {r : Slave} (h : s.Inv) (q : Slave) (hr : s.slaves[i]? = some r) (hcfg : q.cfg = r.cfg)
    (hid : r.idValid = true → q.idValid = true) (hq : q.Inv s.params) : (s.setSlave i q).Inv := by
  obtain ⟨hw, hch, hsl, hps, hcyc⟩ := h
  refine ⟨(s.setSlave_config i r q hr hcfg).symm ▸ hw, hch, fun x hx => ?_, hps,
    fun ha => (hcyc ha).setSlave hr hcfg hid⟩
  obtain rfl | hx := mem_set_cases hx
  exacts [hq, hsl x hx]

theorem setPs {ps : Scheduler} (h : s.Inv) (hps : ps.Inv s.params) (hcyc : ps.state ≠ .idle → (s.setPs ps).CycleInv) :
    (s.setPs ps).Inv := by
  obtain ⟨hw, hch, hsl, -, -⟩ := h
  exact ⟨hw, hch, hsl, hps, hcyc⟩

/-- Within a cycle the scheduler's registers move on without a new slave, a new block or a new address in the map. -/
theorem setPs_cycle {ps : Scheduler} (h : s.Inv) (ha : s.ps.state ≠ .idle) (hps : ps.Inv s.params)
    (hslave : ps.curSlave = s.ps.curSlave) (hblock : ps.curBlock = s.ps.curBlock) (hmap : ∀ x ∈ ps.map, x ∈ s.ps.map) :
    (s.setPs ps).Inv := by
  refine h.setPs hps fun _ => ?_
  obtain ⟨-, -, -, -, hcyc⟩ := h
  obtain ⟨r, hr, hen, hval, hblk, haddr⟩ := hcyc ha
  exact ⟨r, by simpa [hslave] using hr, hen, hval, by simpa [hblock] using hblk, fun x hx => haddr x (hmap x hx)⟩

theorem wf (h : s.Inv) : configWf s.config = true := h.1

theorem channel {i : Nat} {c : Channel} (h : s.Inv) (hc : s.channels[i]? = some c) : c.Inv s.params := by
  obtain ⟨-, hch, -⟩ := h
  exact hch c (List.mem_of_getElem? hc)

theorem slave {i : Nat} {r : Slave} (h : s.Inv) (hr : s.slaves[i]? = some r) : r.Inv s.params := by
  obtain ⟨-, -, hsl, -⟩ := h
  exact hsl r (List.mem_of_getElem? hr)

theorem scheduler (h : s.Inv) : s.ps.Inv s.params := by
  obtain ⟨-, -, -, hps, -⟩ := h
  exact hps

end State.Inv

/-! #### Every step keeps the invariant -/

/-- A slave with identity that is due starts its cycle (R128): it is enabled, so R10 (d) gives it a block to poll. -/
theorem State.Inv.startCycle {s : State} {d : Nat} {r : Slave} {now : Nat} (h : s.Inv) (hst : s.ps.state = .idle)
    (hu : s.leastUndiscovered = none) (hd : s.leastDue now = some (d, r)) (hnow : timeFits s.params now = true) :
    (s.startCycle d r now).Inv := by
  obtain ⟨hr, hdue, -⟩ := (s.leastDue_eq_some now d r).mp hd
  obtain ⟨hen, -⟩ := (Slave.due_eq_true s.params now r).mp hdue
  have hid : r.idValid = true := by
    have := (s.leastUndiscovered_eq_none).mp hu r (List.mem_of_getElem? hr)
    obtain hz | hv := (Slave.undiscovered_eq_false r).mp this
    exacts [absurd hz (Nat.pos_iff_ne_zero.mp hen), hv]
  have hblk : 0 < r.cfg.blocks.length := by
    obtain ⟨-, -, -, -, hz | hb, -⟩ := (slaveCfgWf_iff _ _).mp (slaveCfgWf_of_config s d r h.wf hr)
    exacts [absurd hz (Nat.pos_iff_ne_zero.mp hen), hb]
  have hps := h.scheduler
  obtain ⟨hmap, -, hrsp, -, -⟩ := hps.rests hst
  refine (h.setSlave { r with lastPoll := now } hr rfl (fun h => h) ((h.slave hr).polled hnow)).setPs
    (.of_active nofun hps.map_fits hps.deadline_lt ?_ nofun hrsp) fun _ => ?_
  · simp [hps.txen_eq, hst]
  · exact ⟨{ r with lastPoll := now }, getElem?_set_at hr, (Slave.enabled_eq_true _).mpr hen, hid, hblk,
      by simp [hmap]⟩

/-- A polling error ends the reading of the cycle, whether it is a timeout or a response that does not decode
(60_exceptions.md R181). -/
theorem State.Inv.pollFailed {s : State} {r : Slave} (h : s.Inv) (ha : s.ps.state ≠ .idle)
    (ht : s.ps.state ≠ .transmitting) (hr : s.slaves[s.ps.curSlave]? = some r) (code : Code) :
    ((s.setSlave s.ps.curSlave (r.failed s.params code)).setPs
      { s.ps.taint with rsp := [], state := .publishing }).Inv := by
  have hps := h.scheduler
  refine (h.setSlave (r.failed s.params code) hr rfl (fun h => h) ((h.slave hr).failed code)).setPs_cycle ha
    (.of_active nofun hps.map_fits hps.deadline_lt ?_ (fun _ => rfl) rfl) rfl rfl fun _ hx => hx
  simp [hps.txen_eq, ht]

theorem State.pollError_eq_of_rsp_nil (s : State) (i : Nat) (r : Slave) (code : Code) (h : s.ps.rsp = []) :
    s.pollError i r code =
      (s.setSlave i (r.failed s.params code)).setPs { s.ps.taint with rsp := [], state := .publishing } := by
  rw [State.pollError, ← h]
  rfl

/-- The values of a decoded block go to the map (R135): as many as the block has addresses, all of them the slave's. -/
theorem State.Inv.storeBlock {s : State} {r : Slave} {b : Block} {vs : List Nat} (h : s.Inv)
    (hst : s.ps.state = .decoding) (hr : s.slaves[s.ps.curSlave]? = some r)
    (hb : r.cfg.blocks[s.ps.curBlock]? = some b) (hlen : vs.length = b.count) (hvs : ∀ v ∈ vs, v < 2 ^ s.params.valW) :
    (s.storeBlock r b vs).Inv := by
  have hps := h.scheduler
  have hcfg := slaveCfgWf_of_config s _ r h.wf hr
  have hmem := List.mem_of_getElem? hb
  obtain ⟨-, -, -, -, hcyc⟩ := id h
  obtain ⟨q, hq, hen, hid, hblk, haddr⟩ := hcyc (by simp [hst])
  obtain rfl : r = q := Option.some.inj (hr.symm.trans hq)
  refine (h.setSlave (r.succeeded s.params) hr rfl (fun h => h) (h.slave hr).succeeded).setPs
    (.of_active nofun (hps.map_fits.store hcfg hmem hlen hvs haddr) hps.deadline_lt ?_ ?_ rfl) fun _ => ?_
  · simp [hps.txen_eq, hst]
  · simp [hps.tainted_eq_false, hst]
  · exact ⟨r.succeeded s.params, getElem?_set_at hr, hen, hid, hblk,
      ScratchMap.store_mem_slaveAddrs hmem hlen haddr⟩

/-- The next block of the polled slave (R136) is one of its blocks. -/
theorem State.Inv.nextBlock {s : State} {r : Slave} (h : s.Inv) (hst : s.ps.state = .advanceBlock)
    (hr : s.slaves[s.ps.curSlave]? = some r) (hb : s.ps.curBlock + 1 < r.cfg.blocks.length) :
    (s.setPs { s.ps with curBlock := s.ps.curBlock + 1, state := .prepareTransmit }).Inv := by
  have hps := h.scheduler
  obtain ⟨-, -, -, -, hcyc⟩ := id h
  obtain ⟨q, hq, hen, hid, -, haddr⟩ := hcyc (by simp [hst])
  obtain rfl : r = q := Option.some.inj (hr.symm.trans hq)
  refine h.setPs (.of_active nofun hps.map_fits hps.deadline_lt ?_ ?_ (hps.rsp_eq_nil (by simp [hst])))
    fun _ => ⟨r, hr, hen, hid, hb, haddr⟩
  · simp [hps.txen_eq, hst]
  · simp [hps.tainted_eq_false, hst]

/-- A complete response is latched (R131): the one state with something in the latch. -/
theorem State.Inv.latch {s : State} {bus : BusRsp} (h : s.Inv) (hst : s.ps.state = .awaitingResponse)
    (hbus : bus.wf = true) : (s.setPs { s.ps with rsp := bus.data, state := .decoding }).Inv := by
  have hps := h.scheduler
  obtain ⟨hwf, hval, hmap⟩ := hps.map_fits
  have hlen : bus.data.length < 2 ^ 16 := by
    simp only [BusRsp.wf, lenFits, Bool.and_eq_true, decide_eq_true_eq] at hbus
    exact hbus.1
  refine h.setPs_cycle (by simp [hst])
    ⟨nofun, hwf, hval, hmap, ?_, ?_, fun _ => rfl, hlen, hps.deadline_lt⟩ rfl rfl fun _ hx => hx
  · simp [hps.txen_eq, hst]
  · simp [hps.tainted_eq_false, hst]

/-- The cycle ends with an empty map (R137 (d), R138), and the scheduler rests. -/
theorem State.Inv.destroyCycle {s : State} (h : s.Inv) (hst : s.ps.state = .publishing)
    (hm : s.ps.map.least = none) : (s.setPs s.ps.destroyCycle).Inv := by
  have hps := h.scheduler
  obtain ⟨hwf, hval, hlen⟩ := hps.map_fits
  have hmap : s.ps.map = [] := List.head?_eq_none_iff.mp hm
  refine h.setPs ⟨fun _ => ⟨hmap, rfl, rfl, rfl, rfl⟩, hwf, hval, hlen, ?_, nofun, nofun, Nat.two_pow_pos 16,
    hps.deadline_lt⟩ (absurd rfl)
  simp [hps.txen_eq, hst]

theorem ChannelStep.inv {s t : State} {op : Op} {k : Nat} {c : Channel} (hs : s.Inv) (hc : s.channels[k]? = some c)
    (h : ChannelStep s op k c t) : t.Inv := by
  have hcinv := hs.channel hc
  cases h with
  | same => exact hs
  | append ch data hop hn hfit => exact hs.setChannel hc rfl (hcinv.append hn hfit)
  | ended ch hop hst => exact hs.setChannel hc rfl (hcinv.ended hst)
  | overflow | invalid | resumed => exact hs.setChannel hc rfl hcinv.discard
  | delivered ch now bytes d hop hd =>
    obtain rfl | rfl := hd
    · exact hs.setChannel hc (Channel.delivered_cfg _ _ _) (hcinv.delivered d.state now)
    · exact hs.setChannel hc (Channel.delivered_cfg _ _ _) (hcinv.delivered .delivering now)

theorem SchedulerStep.inv {s t : State} {now : Nat} {id : IdRsp} {bus : BusRsp} (hs : s.Inv)
    (hwf : stickWf s.params now id bus = true) (h : SchedulerStep s now id bus t) : t.Inv := by
  have hps := hs.scheduler
  simp only [stickWf, Bool.and_eq_true] at hwf
  obtain ⟨⟨hnow, hid⟩, hbus⟩ := hwf
  cases h with
  | rest | settle | wait => exact hs
  | query u r hst hu =>
    have hr := ((s.leastUndiscovered_eq_some u r).mp hu).1
    exact hs.setSlave (r.answer id) hr (r.answer_cfg id) (Slave.answer_idValid id) ((hs.slave hr).answer hid)
  | start d r hst hu hd => exact hs.startCycle hst hu hd hnow
  | prepare hst =>
    refine hs.setPs_cycle (by simp [hst]) (.of_active nofun hps.map_fits (tadd_lt _ _ _) rfl ?_
      (hps.rsp_eq_nil (by simp [hst]))) rfl rfl fun _ hx => hx
    simp [hps.tainted_eq_false, hst]
  | send r b hst hr hb =>
    refine hs.setPs_cycle (by simp [hst]) (.of_active nofun hps.map_fits (tadd_lt _ _ _) rfl ?_
      (hps.rsp_eq_nil (by simp [hst]))) rfl rfl fun _ hx => hx
    simp [hps.tainted_eq_false, hst]
  | latch hst => exact hs.latch hst hbus
  | timeout r hst hc hr =>
    rw [s.pollError_eq_of_rsp_nil _ _ _ (hps.rsp_eq_nil (by simp [hst]))]
    exact hs.pollFailed (by simp [hst]) (by simp [hst]) hr _
  | decoded r b vs hst hr hb hd =>
    obtain ⟨hlen, hvs⟩ := busDecode_ok _ _ _ _ _ _ hd
    exact hs.storeBlock hst hr hb hlen hvs
  | rejected r b code hst hr => exact hs.pollFailed (by simp [hst]) (by simp [hst]) hr code
  | nextBlock r hst hr hb => exact hs.nextBlock hst hr hb
  | lastBlock r hst =>
    refine hs.setPs_cycle (by simp [hst]) (.of_active nofun hps.map_fits hps.deadline_lt ?_ (fun _ => rfl)
      (hps.rsp_eq_nil (by simp [hst]))) rfl rfl fun _ hx => hx
    simp [hps.txen_eq, hst]
  | summary r hst =>
    exact hs.setPs_cycle (by simp [hst]) (.of_active (by simp [hst]) (ScratchMap.fits_nil _) hps.deadline_lt
      hps.txen_eq nofun (hps.rsp_eq_nil (by simp [hst]))) rfl rfl nofun
  | value a v hst =>
    exact hs.setPs_cycle (by simp [hst]) (.of_active (by simp [hst]) (hps.map_fits.remove a) hps.deadline_lt hps.txen_eq
      (fun _ => hst) (hps.rsp_eq_nil (by simp [hst]))) rfl rfl fun _ hx => ScratchMap.mem_remove hx
  | identity r hst ht hm hr =>
    exact hs.setSlave r.identityPublished hr rfl (fun h => h) (hs.slave hr).identityPublished
  | finish r hst ht hm => exact hs.destroyCycle hst hm

/-- Every register after reset is within its width, and nothing is active (R205). -/
theorem State.atReset_inv (k : Nat) (g : Config) (hw : configWf g = true) : (State.atReset k g).Inv := by
  refine ⟨(State.atReset_config k g).symm ▸ hw, fun c hc => ?_, fun r hr => ?_, ?_, fun h => absurd rfl h⟩
  · obtain ⟨x, -, rfl⟩ := List.mem_map.mp hc
    exact ⟨Nat.zero_le _, fun _ => rfl, nofun, nofun, nofun, rfl, Nat.mod_lt _ (two_pow_pos' _)⟩
  · obtain ⟨x, -, rfl⟩ := List.mem_map.mp hr
    exact ⟨two_pow_pos' _, Nat.mod_lt _ (two_pow_pos' _), nofun, two_pow_pos' _, two_pow_pos' _⟩
  · exact ⟨fun _ => ⟨rfl, rfl, rfl, rfl, rfl⟩, rfl, nofun, Nat.zero_le _, by simp [State.atReset, Scheduler.atReset],
      nofun, nofun, Nat.two_pow_pos 16, Nat.mod_lt _ (two_pow_pos' _)⟩

/-- A row whose operands fit their fields keeps the invariant. -/
theorem exec_keeps_inv (s t : State) (i : Instr) (hs : s.Inv) (hi : i.wf s.params = true) (h : exec i s = .next t) :
    t.Inv := by
  obtain ⟨hw, hstep⟩ := exec_cases s t i h
  cases hstep with
  | nothing => exact hs
  | reset => exact State.atReset_inv (s.resets + 1) s.config hw
  | expanded is => exact (s.inv_present is).mpr hs
  | channel op k c _ hop hu hc hstep => exact hstep.inv hs hc
  | scheduler now id bus _ hop hstep =>
    rw [Instr.wf_of_toOp _ hop] at hi
    exact hstep.inv hs hi

/-- Settles O52: a fetch answers a row with operands that fit and changes only `inbox`, and such a row keeps the
invariant. -/
theorem invariantIsKept : Obligations.InvariantIsKept := by
  intro s t hs h
  obtain ⟨i, u, hf, hx⟩ := (step_eq_next s t).mp h
  have hi := s.fetch_row_wf u i hf
  obtain ⟨q, rfl⟩ := s.fetch_state u i hf
  exact exec_keeps_inv _ t i ((s.inv_inbox q).mpr hs) hi hx

theorem Config.atReset_wf : configWf Config.atReset = true := by decide

/-- Settles O53: the configuration of log 2 is well-formed. -/
theorem invariantHoldsAtReset : Obligations.InvariantHoldsAtReset :=
  State.atReset_inv 0 Config.atReset Config.atReset_wf

/-! #### A channel operation looks at its own record only (R25)

Two machines run side by side: `SameEffect` compares two answers from the point of view of channel `k`. -/

/-- Where both answer a next state, record `k` is the same after both and both appended the same events. -/
def SameEffect (k : Nat) (s s' : State) (x x' : Result) : Prop :=
  ∀ t t', x = .next t → x' = .next t' →
    t.channels[k]? = t'.channels[k]? ∧ ∃ es, t.out = s.out ++ es ∧ t'.out = s'.out ++ es

section SameEffect

variable {s s' : State} {k : Nat} {c : Channel}

theorem SameEffect.same (hk : s.channels[k]? = s'.channels[k]?) : SameEffect k s s' (.next s) (.next s') := by
  rintro _ _ ⟨⟩ ⟨⟩
  exact ⟨hk, [], by simp⟩

theorem SameEffect.emitted (hc : s.channels[k]? = some c) (hc' : s'.channels[k]? = some c) (d : Channel)
    (es : List Event) :
    SameEffect k s s' (.next ((s.setChannel k d).emit es)) (.next ((s'.setChannel k d).emit es)) := by
  rintro _ _ ⟨⟩ ⟨⟩
  exact ⟨(getElem?_set_at hc).trans (getElem?_set_at hc').symm, es, rfl, rfl⟩

theorem SameEffect.written (hc : s.channels[k]? = some c) (hc' : s'.channels[k]? = some c) (d : Channel) :
    SameEffect k s s' (.next (s.setChannel k d)) (.next (s'.setChannel k d)) := by
  rintro _ _ ⟨⟩ ⟨⟩
  exact ⟨(getElem?_set_at hc).trans (getElem?_set_at hc').symm, [], by simp⟩

/-- A row compares well when what stands under its guard does, for the record both machines have. -/
theorem SameEffect.onChannel {ch : ChField} {st : ChState} {f f' : Channel → Result}
    (hk : s.channels[ch.toNat]? = s'.channels[ch.toNat]?)
    (h : ∀ c, s.channels[ch.toNat]? = some c → s'.channels[ch.toNat]? = some c →
      SameEffect ch.toNat s s' (f c) (f' c)) :
    SameEffect ch.toNat s s' (onChannel s ch st f) (onChannel s' ch st f') := by
  intro t t' hx hx'
  obtain ⟨-, c, hc, -, hf⟩ := (onChannel_eq_next s t ch st f).mp hx
  obtain ⟨-, c', hc', -, hf'⟩ := (onChannel_eq_next s' t' ch st f').mp hx'
  obtain rfl : c = c' := Option.some.inj (hc.symm.trans (hk.trans hc'))
  exact h c hc hc' t t' hf hf'

theorem SameEffect.acceptBurst (hc : s.channels[k]? = some c) (hc' : s'.channels[k]? = some c) (data : List Byte) :
    SameEffect k s s' (.next (s.acceptBurst k c data)) (.next (s'.acceptBurst k c data)) := by
  unfold State.acceptBurst
  split
  · exact .same (hc.trans hc'.symm)
  · split
    · exact .emitted hc hc' _ _
    · exact .written hc hc' _

theorem SameEffect.deliver (hp : s.params = s'.params) (hc : s.channels[k]? = some c) (hc' : s'.channels[k]? = some c)
    (d : Channel) (now : Nat) : SameEffect k s s' (s.deliver k d now) (s'.deliver k d now) := by
  unfold State.deliver
  rw [hp]
  split
  · exact nofun
  · exact .emitted hc hc' _ _

/-- The rows of a channel's operations, row by row. -/
theorem exec_channel_sameEffect (i : Instr) (op : Op) (hop : i.toOp = some op) (hu : op.unit = .channel k)
    (hp : s.params = s'.params) (hk : s.channels[k]? = s'.channels[k]?) :
    SameEffect k s s' (exec i s) (exec i s') := by
  cases i <;> simp only [Instr.toOp, Option.some.injEq, reduceCtorEq] at hop
  all_goals
    subst hop
    simp only [Op.unit, UnitId.channel.injEq, reduceCtorEq] at hu
  all_goals
    subst hu
    refine .onChannel hk fun c hc hc' => ?_
  case pushIdle ch data | pushCollecting ch data => exact .acceptBurst hc hc' data
  case eobCollecting ch => exact .written hc hc' _
  case ctickValidating ch now =>
    split
    · exact nofun
    · exact .emitted hc hc' _ _
    · exact .deliver hp hc hc' _ now
  case ctickDelivering ch now => exact .deliver hp hc hc' c now
  case ctickThrottled ch now =>
    rw [hp]
    split
    · exact .written hc hc' _
    · exact .same hk
  all_goals exact .same hk

end SameEffect

/-- The row of a channel operation is selected by that channel's record (30_encoding.md R95). -/
theorem selectRow_of_channel {s s' : State} {op : Op} {k : Nat} (hu : op.unit = .channel k)
    (hk : s.channels[k]? = s'.channels[k]?) : selectRow s op = selectRow s' op := by
  cases op <;> simp only [Op.unit, UnitId.channel.injEq, reduceCtorEq] at hu
  all_goals
    subst hu
    simp only [selectRow, hk]

/-- Settles O59: the two machines select the same row, and that row has the same effect on record `k`. -/
theorem channelsAreIsolated : Obligations.ChannelsAreIsolated := by
  intro s s' t t' op k hu hp hk ht ht'
  obtain ⟨i, hrow, hx⟩ := (applyOp_eq_next s t op).mp ht
  obtain ⟨i', hrow', hx'⟩ := (applyOp_eq_next s' t' op).mp ht'
  obtain rfl : i = i' := Except.ok.inj (hrow.symm.trans ((selectRow_of_channel hu hk).trans hrow'))
  exact exec_channel_sameEffect i op (selectRow_toOp s op i hrow) hu hp hk t t' hx hx'

end Sys2Proof.Machine

/-! ### Memories and atomicity (20_memory.md)

Bursts compose (R66, R70): only the bytes count, not where one burst ends and the next begins. Operations of different
units commute (R72, R76 (d)): each keeps what the other reads, and does the same to its own unit in any two machines
that agree on that unit. -/

namespace Sys2Proof.Machine

open Sys2Proof

/-! #### Two bursts and their concatenation (R66, R67) -/

theorem cellsPutAll_append {α : Type} (vs ws : List α) (off : Nat) (m : List (Nat × α)) :
    cellsPutAll off (vs ++ ws) m = cellsPutAll (off + vs.length) ws (cellsPutAll off vs m) := by
  induction vs generalizing off m with
  | nil => rfl
  | cons v vs ih => simp [cellsPutAll, ih, Nat.add_assoc, Nat.add_comm 1]

theorem Memory.writeBytes_append (m : Memory) (off : Nat) (d e : List Byte) :
    m.writeBytes off (d ++ e) = (m.writeBytes off d).writeBytes (off + d.length) e :=
  cellsPutAll_append d e off m

theorem Channel.append_append (c : Channel) (d e : List Byte) : (c.append d).append e = c.append (d ++ e) := by
  simp [Channel.append, Memory.writeBytes_append, Nat.add_assoc]

theorem State.setChannel_setChannel (s : State) (i : Nat) (c d : Channel) :
    (s.setChannel i c).setChannel i d = s.setChannel i d := by
  simp [State.setChannel]

@[simp] theorem State.acceptBurst_nil (s : State) (i : Nat) (c : Channel) : s.acceptBurst i c [] = s := rfl

theorem State.acceptBurst_of_fits {data : List Byte} {c : Channel} (s : State) (i : Nat) (hne : data ≠ [])
    (hfit : c.cursor + data.length ≤ c.cfg.cap) : s.acceptBurst i c data = s.setChannel i (c.append data) := by
  obtain ⟨h, -⟩ | ⟨-, h, -⟩ | ⟨-, -, e⟩ := s.acceptBurst_cases i c data
  · exact absurd (List.eq_nil_of_length_eq_zero h) hne
  · omega
  · exact e

/-- The rows of `PUSH` in the two states that accept bytes do the same (40_channel.md R106, R107). -/
theorem applyOp_push_of_accepts {s : State} {ch : ChField} {c : Channel} (data : List Byte)
    (hc : s.channels[ch.toNat]? = some c) (hst : c.state = .idle ∨ c.state = .collecting) :
    applyOp s (.push ch data) = ready s (.next (s.acceptBurst ch.toNat c data)) := by
  rw [applyOp_of_row s _ _ (selectRow_push s ch data c hc)]
  obtain h | h := hst <;> simp [h, pushRow, exec, execPushIdle, execPushCollecting, onChannel, hc]

theorem applyAll_cons_of_next {s t : State} {op : Op} (ops : List Op) (h : applyOp s op = .next t) :
    applyAll s (op :: ops) = applyAll t ops := by
  simp [applyAll, h]

theorem applyAll_cons_of_refused {s : State} {op : Op} {r : Refusal} (ops : List Op) (h : applyOp s op = .refused r) :
    applyAll s (op :: ops) = .refused r := by
  simp [applyAll, h]

/-- After a burst that is not empty, the channel collects and goes on where the burst ended. -/
theorem applyOp_push_after_append {s : State} {ch : ChField} {c : Channel} {a b : List Byte}
    (hw : configWf s.config = true) (hc : s.channels[ch.toNat]? = some c) (ha : a ≠ [])
    (hfit : c.cursor + (a.length + b.length) ≤ c.cfg.cap) :
    applyOp (s.setChannel ch.toNat (c.append a)) (.push ch b) = .next (s.acceptBurst ch.toNat c (a ++ b)) := by
  have hw' : configWf (s.setChannel ch.toNat (c.append a)).config = true := by
    rw [s.setChannel_config ch.toNat c (c.append a) hc rfl, hw]
  rw [applyOp_push_of_accepts b (getElem?_set_at hc) (.inr rfl), ready_of_wf _ _ hw']
  by_cases hb : b = []
  · rw [hb, List.append_nil, State.acceptBurst_nil, s.acceptBurst_of_fits _ ha (by omega)]
  · rw [State.acceptBurst_of_fits _ _ hb (by simp; omega), State.setChannel_setChannel, Channel.append_append,
      s.acceptBurst_of_fits _ (by simp [ha]) (by simp; omega)]

/-- Settles O28: an empty first burst changes nothing, and after any other the second continues at its end. -/
theorem burstBoundariesDoNotMatter : Obligations.BurstBoundariesDoNotMatter := by
  intro s ch a b c hc hst hfit
  have hpush := fun data => applyOp_push_of_accepts data hc hst
  cases hw : configWf s.config with
  | false =>
    have hrefused : ∀ data, applyOp s (.push ch data) = .refused .illFormedConfig := fun data =>
      (hpush data).trans (ready_of_not_wf _ _ hw)
    rw [applyAll_cons_of_refused _ (hrefused a), applyAll_cons_of_refused _ (hrefused (a ++ b))]
  | true =>
    have hnext : ∀ data, applyOp s (.push ch data) = .next (s.acceptBurst ch.toNat c data) := fun data =>
      (hpush data).trans (ready_of_wf _ _ hw)
    rw [applyAll_cons_of_next _ (hnext a), applyAll_cons_of_next _ (hnext (a ++ b))]
    by_cases ha : a = []
    · subst ha
      exact applyAll_cons_of_next _ (hnext b)
    · rw [s.acceptBurst_of_fits _ ha (by omega),
        applyAll_cons_of_next _ (applyOp_push_after_append hw hc ha hfit)]

/-! #### What an operation leaves alone (R72) -/

/-- Two machines hold the same registers of a unit. -/
def State.SameAt (s t : State) : UnitId → Prop
  | .channel k => s.channels[k]? = t.channels[k]?
  | .scheduler => s.slaves = t.slaves ∧ s.ps = t.ps
  | .nobody => True

theorem State.SameAt.refl (s : State) (v : UnitId) : s.SameAt s v := by
  cases v <;> simp [State.SameAt]

theorem State.SameAt.symm {s t : State} {v : UnitId} (h : s.SameAt t v) : t.SameAt s v := by
  cases v with
  | channel k => exact Eq.symm h
  | scheduler =>
    obtain ⟨hslaves, hps⟩ := h
    exact ⟨hslaves.symm, hps.symm⟩
  | nobody => trivial

theorem State.SameAt.trans {s t u : State} {v : UnitId} (h : s.SameAt t v) (h' : t.SameAt u v) : s.SameAt u v := by
  cases v with
  | channel k => exact Eq.trans h h'
  | scheduler =>
    obtain ⟨hslaves, hps⟩ := h
    obtain ⟨hslaves', hps'⟩ := h'
    exact ⟨hslaves.trans hslaves', hps.trans hps'⟩
  | nobody => trivial

/-- The second machine differs from the first at most in the registers of unit `v` and in what was emitted. -/
structure State.SameOff (v : UnitId) (s t : State) : Prop where
  config : t.config = s.config
  inbox : t.inbox = s.inbox
  resets : t.resets = s.resets
  sameAt : ∀ w ≠ v, s.SameAt t w

theorem State.SameOff.refl (v : UnitId) (s : State) : State.SameOff v s s :=
  ⟨rfl, rfl, rfl, fun w _ => .refl s w⟩

/-- Machines that hold the same registers of every unit are the same as far as state goes. -/
theorem State.withoutEvents_eq {s t : State} (hconfig : t.config = s.config) (hinbox : t.inbox = s.inbox)
    (hresets : t.resets = s.resets) (h : ∀ v, s.SameAt t v) : t.withoutEvents = s.withoutEvents := by
  have hparams : t.params = s.params := congrArg Config.params hconfig
  have hchannels : t.channels = s.channels := List.ext_getElem? fun k => (h (.channel k)).symm
  obtain ⟨hslaves, hps⟩ := h .scheduler
  simp [State.withoutEvents, hparams, hchannels, hslaves, hps, hinbox, hresets]

theorem ChannelStep.sameOff {s t : State} {op : Op} {k : Nat} {c : Channel} (hc : s.channels[k]? = some c)
    (h : ChannelStep s op k c t) : State.SameOff (.channel k) s t := by
  have hwrite : t = s ∨ ∃ d out, t = { s with channels := s.channels.set k d, out := out } := by
    cases h with
    | same => exact .inl rfl
    | append | overflow | invalid | ended | delivered | resumed => exact .inr ⟨_, _, rfl⟩
  have hconfig := h.config hc
  obtain rfl | ⟨d, out, rfl⟩ := hwrite
  · exact .refl _ _
  · refine ⟨hconfig, rfl, rfl, fun w hw => ?_⟩
    cases w with
    | channel j => exact (getElem?_set_of_ne _ _ _ _ (mt (congrArg UnitId.channel) hw)).symm
    | scheduler => exact ⟨rfl, rfl⟩
    | nobody => trivial

theorem SchedulerStep.sameOff {s t : State} {now : Nat} {id : IdRsp} {bus : BusRsp}
    (h : SchedulerStep s now id bus t) : State.SameOff .scheduler s t := by
  have hwrite : ∃ slaves ps out, t = { s with slaves := slaves, ps := ps, out := out } := by
    cases h <;> exact ⟨_, _, _, rfl⟩
  have hconfig := h.config
  obtain ⟨slaves, ps, out, rfl⟩ := hwrite
  refine ⟨hconfig, rfl, rfl, fun w hw => ?_⟩
  cases w with
  | channel j => rfl
  | scheduler => exact absurd rfl hw
  | nobody => trivial

/-- An operation steps only under a well-formed configuration, and changes the registers of its own unit only. -/
theorem applyOp_sameOff {s t : State} {op : Op} (h : applyOp s op = .next t) :
    configWf s.config = true ∧ State.SameOff op.unit s t := by
  obtain ⟨i, hrow, hx⟩ := (applyOp_eq_next s t op).mp h
  have hop := selectRow_toOp s op i hrow
  cases hu : op.unit with
  | channel k =>
    obtain ⟨hw, c, hc, hstep⟩ := exec_channel_cases s t i op k hop hu hx
    exact ⟨hw, hstep.sameOff hc⟩
  | scheduler =>
    obtain ⟨now, id, bus, rfl⟩ := Op.unit_eq_scheduler hu
    obtain ⟨hw, hstep⟩ := exec_stick_cases s t i now id bus hop hx
    exact ⟨hw, hstep.sameOff⟩
  | nobody =>
    obtain ⟨hw, rfl⟩ := exec_nobody_cases s t i op hop hu hx
    exact ⟨hw, .refl _ _⟩

/-! #### An operation does the same in machines that agree on its unit

Whether a channel operation answers a next state depends on the channel's record; what it then leaves there is R25. -/

theorem onChannel_answers {s s' t : State} {ch : ChField} {st : ChState} {f f' : Channel → Result}
    (hcfg : s'.config = s.config) (hk : s.channels[ch.toNat]? = s'.channels[ch.toNat]?)
    (h : onChannel s ch st f = .next t) (hf : ∀ c, f c = .next t → ∃ t', f' c = .next t') :
    ∃ t', onChannel s' ch st f' = .next t' := by
  obtain ⟨hw, c, hc, hst, hx⟩ := (onChannel_eq_next s t ch st f).mp h
  obtain ⟨t', hx'⟩ := hf c hx
  exact ⟨t', (onChannel_eq_next s' t' ch st f').mpr ⟨hcfg ▸ hw, c, hk ▸ hc, hst, hx'⟩⟩

theorem State.deliver_answers {s t : State} {i : Nat} {c : Channel} {now : Nat} (s' : State)
    (h : s.deliver i c now = .next t) : ∃ t', s'.deliver i c now = .next t' := by
  obtain ⟨bytes, hb, -⟩ := (State.deliver_eq_next s t i c now).mp h
  exact ⟨_, (State.deliver_eq_next s' _ i c now).mpr ⟨bytes, hb, rfl⟩⟩

theorem exec_channel_answers {s s' t : State} {i : Instr} {op : Op} {k : Nat} (hop : i.toOp = some op)
    (hu : op.unit = .channel k) (hcfg : s'.config = s.config) (hk : s.channels[k]? = s'.channels[k]?)
    (h : exec i s = .next t) : ∃ t', exec i s' = .next t' := by
  cases i <;> simp only [Instr.toOp, Option.some.injEq, reduceCtorEq] at hop
  all_goals
    subst hop
    simp only [Op.unit, UnitId.channel.injEq, reduceCtorEq] at hu
  all_goals
    subst hu
    refine onChannel_answers hcfg hk h fun c hx => ?_
  case ctickValidating ch now =>
    split at hx
    · cases hx
    · exact ⟨_, rfl⟩
    · exact State.deliver_answers s' hx
  case ctickDelivering ch now => exact State.deliver_answers s' hx
  all_goals exact ⟨_, rfl⟩

/-- Where the first of two answers is a next state, so is the second, with the same slaves, the same scheduler and the
same events appended. -/
def SameTick (s s' : State) (x x' : Result) : Prop :=
  ∀ t, x = .next t → ∃ t', x' = .next t' ∧ t.slaves = t'.slaves ∧ t.ps = t'.ps ∧
    ∃ es, t.out = s.out ++ es ∧ t'.out = s'.out ++ es

section SameTick

variable {s s' : State}

theorem SameTick.refused (r : Refusal) (x' : Result) : SameTick s s' (.refused r) x' := nofun

theorem SameTick.emitted {u u' : State} {es : List Event} (hslaves : u.slaves = u'.slaves) (hps : u.ps = u'.ps)
    (hout : u.out = s.out ++ es) (hout' : u'.out = s'.out ++ es) : SameTick s s' (.next u) (.next u') := by
  rintro _ ⟨⟩
  exact ⟨u', rfl, hslaves, hps, es, hout, hout'⟩

theorem SameTick.silent {u u' : State} (hslaves : u.slaves = u'.slaves) (hps : u.ps = u'.ps)
    (hout : u.out = s.out) (hout' : u'.out = s'.out) : SameTick s s' (.next u) (.next u') :=
  .emitted (es := []) hslaves hps (by simp [hout]) (by simp [hout'])

theorem SameTick.onScheduler {st : PsState} {cond : Bool} {x x' : Result} (hcfg : s'.config = s.config)
    (hps : s.ps = s'.ps) (h : SameTick s s' x x') :
    SameTick s s' (onScheduler s st cond x) (onScheduler s' st cond x') := by
  intro t hx
  obtain ⟨hw, hst, hcond, hx⟩ := (onScheduler_eq_next s t st cond x).mp hx
  obtain ⟨t', hx', heffect⟩ := h t hx
  exact ⟨t', (onScheduler_eq_next s' t' st cond x').mpr ⟨hcfg ▸ hw, hps ▸ hst, hcond, hx'⟩, heffect⟩

theorem SameTick.withSlave {f f' : Slave → Result} (hslaves : s.slaves = s'.slaves) (hps : s.ps = s'.ps)
    (h : ∀ r, SameTick s s' (f r) (f' r)) : SameTick s s' (withSlave s f) (withSlave s' f') := by
  intro t hx
  obtain ⟨r, hr, hx⟩ := (withSlave_eq_next s t f).mp hx
  obtain ⟨t', hx', heffect⟩ := h r t hx
  exact ⟨t', (withSlave_eq_next s' t' f').mpr ⟨r, hslaves ▸ hps ▸ hr, hx'⟩, heffect⟩

theorem SameTick.withBlock {r : Slave} {f f' : Block → Result} (hps : s.ps = s'.ps)
    (h : ∀ b, SameTick s s' (f b) (f' b)) : SameTick s s' (withBlock s r f) (withBlock s' r f') := by
  intro t hx
  obtain ⟨b, hb, hx⟩ := (withBlock_eq_next s t r f).mp hx
  obtain ⟨t', hx', heffect⟩ := h b t hx
  exact ⟨t', (withBlock_eq_next s' t' r f').mpr ⟨b, hps ▸ hb, hx'⟩, heffect⟩

theorem State.leastUndiscovered_congr (h : s.slaves = s'.slaves) : s.leastUndiscovered = s'.leastUndiscovered := by
  rw [State.leastUndiscovered, State.leastUndiscovered, h]

theorem State.leastDue_congr (hp : s.params = s'.params) (h : s.slaves = s'.slaves) (now : Nat) :
    s.leastDue now = s'.leastDue now := by
  rw [State.leastDue, State.leastDue, hp, h]

/-- The rows of `STICK`, row by row. -/
theorem exec_stick_sameTick (i : Instr) (now : Nat) (id : IdRsp) (bus : BusRsp)
    (hop : i.toOp = some (.stick now id bus)) (hcfg : s'.config = s.config) (hslaves : s.slaves = s'.slaves)
    (hps : s.ps = s'.ps) : SameTick s s' (exec i s) (exec i s') := by
  have hp : s.params = s'.params := congrArg Config.params hcfg.symm
  cases i <;> simp only [Instr.toOp, Option.some.injEq, reduceCtorEq, Op.stick.injEq] at hop
  all_goals
    obtain ⟨rfl, rfl, rfl⟩ := hop
    simp only [exec, execStickIdleIdentity, execStickIdleSelect, execStickPrepareTransmit, execStickTransmitting,
      execStickAwaitingComplete, execStickAwaitingTimeout, execStickAwaitingWait, execStickDecoding,
      execStickAdvanceBlock, execStickPublishing, State.leastUndiscovered_congr hslaves,
      State.leastDue_congr hp hslaves, hp, hps]
    refine .onScheduler hcfg hps ?_
  case stickIdleIdentity =>
    split
    · exact .refused _ _
    · exact .emitted (by simp [hslaves]) hps rfl rfl
  case stickIdleSelect =>
    split
    · exact .silent hslaves hps rfl rfl
    · exact .silent (by simp [hslaves]) (by simp [hps]) rfl rfl
  case stickPrepareTransmit => exact .emitted hslaves rfl rfl rfl
  case stickTransmitting =>
    split
    · exact .withSlave hslaves hps fun r => .withBlock hps fun b => .emitted hslaves rfl rfl rfl
    · exact .silent hslaves hps rfl rfl
  case stickAwaitingComplete => exact .silent hslaves rfl rfl rfl
  case stickAwaitingTimeout =>
    exact .withSlave hslaves hps fun r => .silent (by simp [hslaves, hp]) (by simp [hps]) rfl rfl
  case stickAwaitingWait => exact .silent hslaves hps rfl rfl
  case stickDecoding =>
    refine .withSlave hslaves hps fun r => .withBlock hps fun b => ?_
    split
    · exact .silent (by simp [hslaves, hps, hp]) (by simp [hps]) rfl rfl
    · exact .silent (by simp [hslaves, hps, hp]) (by simp [hps]) rfl rfl
  case stickAdvanceBlock => exact .withSlave hslaves hps fun r => .silent hslaves rfl rfl rfl
  case stickPublishing =>
    split
    · exact .withSlave hslaves hps fun r => .emitted hslaves rfl rfl rfl
    · split
      · exact .emitted hslaves rfl rfl rfl
      · refine .withSlave hslaves hps fun r => ?_
        split
        · exact .emitted (by simp [hslaves]) hps rfl rfl
        · exact .silent hslaves rfl rfl rfl

/-- The row of a `STICK` is selected by the scheduler and the slaves (30_encoding.md R95). -/
theorem selectRow_stick_congr (now : Nat) (id : IdRsp) (bus : BusRsp) (hp : s.params = s'.params)
    (hslaves : s.slaves = s'.slaves) (hps : s.ps = s'.ps) :
    selectRow s (.stick now id bus) = selectRow s' (.stick now id bus) := by
  simp only [selectRow, stickRow, State.leastUndiscovered_congr hslaves, hp, hps]

end SameTick

theorem applyOp_channel_sameAt {s s' t : State} {op : Op} {k : Nat} (hu : op.unit = .channel k)
    (hcfg : s'.config = s.config) (hk : s.SameAt s' (.channel k)) (h : applyOp s op = .next t) :
    ∃ t', applyOp s' op = .next t' ∧ t.SameAt t' (.channel k) := by
  obtain ⟨i, hrow, hx⟩ := (applyOp_eq_next s t op).mp h
  obtain ⟨t', hx'⟩ := exec_channel_answers (selectRow_toOp s op i hrow) hu hcfg hk hx
  have h' : applyOp s' op = .next t' :=
    (applyOp_of_row s' op i ((selectRow_of_channel hu hk).symm.trans hrow)).trans hx'
  obtain ⟨hsame, -⟩ := channelsAreIsolated s s' t t' op k hu (congrArg Config.params hcfg.symm) hk h h'
  exact ⟨t', h', hsame⟩

theorem applyOp_stick_sameAt {s s' t : State} {now : Nat} {id : IdRsp} {bus : BusRsp} (hcfg : s'.config = s.config)
    (hsame : s.SameAt s' .scheduler) (h : applyOp s (.stick now id bus) = .next t) :
    ∃ t', applyOp s' (.stick now id bus) = .next t' ∧ t.SameAt t' .scheduler := by
  obtain ⟨hslaves, hps⟩ := hsame
  obtain ⟨i, hrow, hx⟩ := (applyOp_eq_next s t _).mp h
  obtain ⟨t', hx', hslaves', hps', -⟩ :=
    exec_stick_sameTick i now id bus (selectRow_toOp s _ i hrow) hcfg hslaves hps t hx
  have hrow' := selectRow_stick_congr now id bus (congrArg Config.params hcfg.symm) hslaves hps
  exact ⟨t', (applyOp_of_row s' _ i (hrow'.symm.trans hrow)).trans hx', hslaves', hps'⟩

/-- The one operation of no unit that has a step is `nop`, whatever the rest of the machine (30_encoding.md R90). -/
theorem applyOp_nobody_answers {s s' t : State} {op : Op} (hu : op.unit = .nobody) (hw : configWf s'.config = true)
    (h : applyOp s op = .next t) : applyOp s' op = .next s' := by
  cases op <;> simp only [Op.unit, reduceCtorEq] at hu
  case nop ch => exact ready_of_wf s' (.next s') hw
  case reserved0101 | reserved011x | reserved1xxx => cases h

/-- An operation that steps in one machine steps in every machine with the same configuration that agrees on its unit,
and leaves the unit the same in both. -/
theorem applyOp_sameAt {s s' t : State} {op : Op} (hcfg : s'.config = s.config) (hsame : s.SameAt s' op.unit)
    (h : applyOp s op = .next t) : ∃ t', applyOp s' op = .next t' ∧ t.SameAt t' op.unit := by
  cases hu : op.unit with
  | channel k => exact applyOp_channel_sameAt hu hcfg (hu ▸ hsame) h
  | scheduler =>
    obtain ⟨now, id, bus, rfl⟩ := Op.unit_eq_scheduler hu
    exact applyOp_stick_sameAt hcfg hsame h
  | nobody =>
    obtain ⟨hw, -⟩ := applyOp_sameOff h
    exact ⟨s', applyOp_nobody_answers hu (hcfg ▸ hw) h, trivial⟩

/-- Settles O58: the second operation finds its unit before the first as it is after it, and the first finds its unit
unchanged by the second; so each does the same in either order, and no unit but theirs changes. -/
theorem differentUnitsCommute : Obligations.DifferentUnitsCommute := by
  intro s t u a b hab ha hb
  obtain ⟨-, hst⟩ := applyOp_sameOff ha
  obtain ⟨-, htu⟩ := applyOp_sameOff hb
  obtain ⟨t', hb', hatB⟩ := applyOp_sameAt hst.config.symm (hst.sameAt b.unit hab.symm).symm hb
  obtain ⟨-, hst'⟩ := applyOp_sameOff hb'
  obtain ⟨u', ha', hatA⟩ := applyOp_sameAt hst'.config (hst'.sameAt a.unit hab) ha
  obtain ⟨-, ht'u'⟩ := applyOp_sameOff ha'
  have hconfig : u'.config = u.config := by rw [ht'u'.config, hst'.config, htu.config, hst.config]
  have hinbox : u'.inbox = u.inbox := by rw [ht'u'.inbox, hst'.inbox, htu.inbox, hst.inbox]
  have hresets : u'.resets = u.resets := by rw [ht'u'.resets, hst'.resets, htu.resets, hst.resets]
  refine ⟨t', u', hb', ha', State.withoutEvents_eq hconfig hinbox hresets fun v => ?_⟩
  by_cases hA : v = a.unit
  · subst hA
    exact (htu.sameAt a.unit hab).symm.trans hatA
  · have hut' : u.SameAt t' v := by
      by_cases hB : v = b.unit
      · exact hB ▸ hatB
      · exact ((htu.sameAt v hB).symm.trans (hst.sameAt v hA).symm).trans (hst'.sameAt v hB)
    exact hut'.trans (ht'u'.sameAt v hA)

end Sys2Proof.Machine

/-! ### Encodings (30_encoding.md)

Encoder and decoder are inverse to each other (R90 to R94, R97); the selected row has the dispatch key (R95); what is
reserved has no step (R96); a step applies what is presented, named rows included (R100); codes, events and lines of a
trace (R89, R98, R99). -/

namespace Sys2Proof.Machine

open Sys2Proof

/-! #### Command words (R90) -/

theorem toNat_concat_div {v w : Nat} (a : BitVec v) (b : BitVec w) : (a ++ b).toNat / 2 ^ w = a.toNat := by
  rw [toNat_concat, Nat.mul_comm, Nat.mul_add_div (two_pow_pos' w), Nat.div_eq_of_lt b.isLt, Nat.add_zero]

theorem ofNat_toNat_concat_mod {v w : Nat} (a : BitVec v) (b : BitVec w) :
    BitVec.ofNat w ((a ++ b).toNat % 2 ^ w) = b := by
  refine BitVec.eq_of_toNat_eq ?_
  rw [BitVec.toNat_ofNat, Nat.mod_mod, toNat_concat, Nat.mul_add_mod_self_right, Nat.mod_eq_of_lt b.isLt]

/-- A number is its bits from `w` on concatenated with the `w` bits below. -/
theorem toNat_concat_ofNat_mod {v w : Nat} (a : BitVec v) (n : Nat) (h : a.toNat = n / 2 ^ w) :
    (a ++ BitVec.ofNat w (n % 2 ^ w)).toNat = n := by
  rw [toNat_concat, h, BitVec.toNat_ofNat, Nat.mod_mod, Nat.div_add_mod']

/-- The opcode of a command word, bits 11:8. -/
theorem opcode_of_word (op : BitVec 4) (ch : ChField) : (op ++ ch).toNat / 256 = op.toNat := toNat_concat_div op ch

/-- The channel field of a command word, bits 7:0. -/
theorem channel_of_word (op : BitVec 4) (ch : ChField) : BitVec.ofNat 8 ((op ++ ch).toNat % 256) = ch :=
  ofNat_toNat_concat_mod op ch

theorem opcode_of_word_011x (low : BitVec 9) :
    (0b011#3 ++ low).toNat / 256 = 6 ∨ (0b011#3 ++ low).toNat / 256 = 7 := by
  have : (0b011#3 ++ low).toNat / 512 = 3 := toNat_concat_div 0b011#3 low
  omega

theorem opcode_of_word_1xxx (low : BitVec 11) : 8 ≤ (0b1#1 ++ low).toNat / 256 := by
  have : (0b1#1 ++ low).toNat / 2048 = 1 := toNat_concat_div 0b1#1 low
  omega

/-! #### What was encoded is read back (R90 to R94) -/

theorem decodePush_operandBits (p : Params) (ch : ChField) (data : List Byte) (rest : List Bool)
    (h : (Op.push ch data).wf p = true) :
    decodePush ch (operandBits p (.push ch data) ++ rest) = .ok (.push ch data, rest) := by
  have hlen : data.length < 2 ^ 16 := by simpa [Op.wf, lenFits] using h
  simp only [operandBits, List.append_assoc, decodePush, takeField_fieldBits_lt 16 _ _ hlen, takeBytes_byteBits]

theorem decodeCtick_operandBits (p : Params) (ch : ChField) (now : Nat) (rest : List Bool)
    (h : (Op.ctick ch now).wf p = true) :
    decodeCtick p ch (operandBits p (.ctick ch now) ++ rest) = .ok (.ctick ch now, rest) := by
  have hnow : now < 2 ^ p.timeW := by simpa [Op.wf, timeFits] using h
  simp only [operandBits, decodeCtick, takeField_fieldBits_lt _ _ _ hnow]

theorem decodeStick_operandBits (p : Params) (now : Nat) (id : IdRsp) (bus : BusRsp) (rest : List Bool)
    (h : (Op.stick now id bus).wf p = true) :
    decodeStick p (operandBits p (.stick now id bus) ++ rest) = .ok (.stick now id bus, rest) := by
  obtain ⟨valid, val⟩ := id
  simp only [Op.wf, stickWf, timeFits, IdRsp.wf, Bool.and_eq_true, decide_eq_true_eq] at h
  obtain ⟨⟨hnow, hval⟩, hbus⟩ := h
  have hvalid : (if valid = true then 1 else 0) < 2 ^ 1 := by split <;> decide
  simp only [operandBits, List.append_assoc, decodeStick, takeField_fieldBits_lt _ _ _ hnow,
    takeField_fieldBits_lt _ _ _ hvalid, takeField_fieldBits_lt _ _ _ hval, decodeBus_busBits bus rest hbus]
  cases valid <;> rfl

theorem decodeOp_encodeOp (p : Params) (op : Op) (rest : List Bool) (h : op.wf p = true) :
    decodeOp p (encodeOp p op ++ rest) = .ok (op, rest) := by
  simp only [encodeOp, List.append_assoc, decodeOp, takeField_cmdWord]
  cases op <;> simp only [cmdWord, opcode_of_word, channel_of_word]
  case nop | eob | reserved0101 => rfl
  case push ch data => exact decodePush_operandBits p ch data rest h
  case ctick ch now => exact decodeCtick_operandBits p ch now rest h
  case stick now id bus => exact decodeStick_operandBits p now id bus rest h
  case reserved011x low =>
    have hlow : BitVec.ofNat 9 ((0b011#3 ++ low).toNat % 512) = low := ofNat_toNat_concat_mod _ low
    obtain hop | hop := opcode_of_word_011x low <;> simp only [hop, hlow] <;> rfl
  case reserved1xxx low =>
    have hlow : BitVec.ofNat 11 ((0b1#1 ++ low).toNat % 2048) = low := ofNat_toNat_concat_mod _ low
    obtain ⟨k, hop⟩ := Nat.exists_eq_add_of_le' (opcode_of_word_1xxx low)
    simp only [hop, hlow]
    rfl

/-- Settles O1: the command word gives back opcode and channel field, and the reader of the opcode's operands reads back
each field. -/
theorem decodeOfEncodedOperation : Obligations.DecodeOfEncodedOperation := decodeOp_encodeOp

/-! #### What was read is what is encoded (R90 to R94, R97) -/

theorem decodePush_bits (p : Params) {ch : ChField} {bs rest : List Bool} {op : Op}
    (h : decodePush ch bs = .ok (op, rest)) : ∃ data, op = .push ch data ∧ bs = operandBits p op ++ rest := by
  unfold decodePush at h
  split at h
  · cases h
  rename_i len _ hlen
  split at h
  · cases h
  rename_i data _ hdata
  cases h
  obtain ⟨-, rfl⟩ := (takeField_eq_some _ _ _ _).mp hlen
  obtain ⟨rfl, rfl⟩ := (takeBytes_eq_some _ _ _ _).mp hdata
  exact ⟨data, rfl, by simp [operandBits]⟩

theorem decodeCtick_bits {p : Params} {ch : ChField} {bs rest : List Bool} {op : Op}
    (h : decodeCtick p ch bs = .ok (op, rest)) : ∃ now, op = .ctick ch now ∧ bs = operandBits p op ++ rest := by
  unfold decodeCtick at h
  split at h
  · cases h
  rename_i now _ hnow
  cases h
  obtain ⟨-, rfl⟩ := (takeField_eq_some _ _ _ _).mp hnow
  exact ⟨now, rfl, rfl⟩

/-- A bit that was read as a number and kept as a truth value is written as the same number. -/
theorem fieldBits_one_of_lt {n : Nat} (h : n < 2 ^ 1) :
    fieldBits 1 (if (n == 1) = true then 1 else 0) = fieldBits 1 n := by
  obtain rfl | rfl : n = 0 ∨ n = 1 := by omega
  all_goals rfl

theorem decodeBus_bits {bs rest : List Bool} {bus : BusRsp} (h : decodeBus bs = .ok (bus, rest)) :
    bs = busBits bus ++ rest := by
  unfold decodeBus at h
  split at h
  · cases h
  rename_i complete _ hcomplete
  split at h
  · cases h
  rename_i len _ hlen
  split at h
  · cases h
  split at h
  · cases h
  rename_i data _ hdata
  split at h
  · cases h
  rename_i avail _ havail
  split at h
  · cases h
  rename_i err _ herr
  cases h
  obtain ⟨hc, rfl⟩ := (takeField_eq_some _ _ _ _).mp hcomplete
  obtain ⟨-, rfl⟩ := (takeField_eq_some _ _ _ _).mp hlen
  obtain ⟨rfl, rfl⟩ := (takeBytes_eq_some _ _ _ _).mp hdata
  obtain ⟨ha, rfl⟩ := (takeField_eq_some _ _ _ _).mp havail
  obtain ⟨he, rfl⟩ := (takeField_eq_some _ _ _ _).mp herr
  simp only [busBits, fieldBits_one_of_lt hc, BitVec.toNat_ofNat, Nat.mod_eq_of_lt ha, Nat.mod_eq_of_lt he,
    List.append_assoc]

theorem decodeStick_bits {p : Params} {bs rest : List Bool} {op : Op} (h : decodeStick p bs = .ok (op, rest)) :
    ∃ now id bus, op = .stick now id bus ∧ bs = operandBits p op ++ rest := by
  unfold decodeStick at h
  split at h
  · cases h
  rename_i now _ hnow
  split at h
  · cases h
  rename_i valid _ hvalid
  split at h
  · cases h
  rename_i val _ hval
  split at h
  · cases h
  rename_i bus _ hbus
  cases h
  obtain ⟨-, rfl⟩ := (takeField_eq_some _ _ _ _).mp hnow
  obtain ⟨hv, rfl⟩ := (takeField_eq_some _ _ _ _).mp hvalid
  obtain ⟨-, rfl⟩ := (takeField_eq_some _ _ _ _).mp hval
  refine ⟨now, _, bus, rfl, ?_⟩
  simp only [operandBits, fieldBits_one_of_lt hv, decodeBus_bits hbus, List.append_assoc]

theorem encodeOp_eq_of_word {p : Params} {op : Op} {cmd : Nat} (h : (cmdWord op).toNat = cmd) (rest : List Bool) :
    fieldBits 12 cmd ++ (operandBits p op ++ rest) = encodeOp p op ++ rest := by
  rw [encodeOp, h, List.append_assoc]

/-- Each opcode fixes the constructor, the command word is the one that was read, and so are the operand fields. -/
theorem decodeOp_bits {p : Params} {bs rest : List Bool} {op : Op} (h : decodeOp p bs = .ok (op, rest)) :
    bs = encodeOp p op ++ rest := by
  unfold decodeOp at h
  split at h
  · cases h
  rename_i cmd _ hcmd
  obtain ⟨hlt, rfl⟩ := (takeField_eq_some _ _ _ _).mp hcmd
  simp only at h
  split at h
  case h_1 hop =>
    cases h
    exact encodeOp_eq_of_word (op := .nop _) (toNat_concat_ofNat_mod (w := 8) 0b0000#4 cmd hop.symm) rest
  case h_2 hop =>
    obtain ⟨data, rfl, rfl⟩ := decodePush_bits p h
    exact encodeOp_eq_of_word (op := .push _ _) (toNat_concat_ofNat_mod (w := 8) 0b0001#4 cmd hop.symm) rest
  case h_3 hop =>
    cases h
    exact encodeOp_eq_of_word (op := .eob _) (toNat_concat_ofNat_mod (w := 8) 0b0010#4 cmd hop.symm) rest
  case h_4 hop =>
    obtain ⟨now, rfl, rfl⟩ := decodeCtick_bits h
    exact encodeOp_eq_of_word (op := .ctick _ _) (toNat_concat_ofNat_mod (w := 8) 0b0011#4 cmd hop.symm) rest
  case h_5 hop =>
    split at h
    · rename_i hch
      obtain ⟨now, id, bus, rfl, rfl⟩ := decodeStick_bits h
      have hword : (0b0100#4 ++ (0 : ChField)).toNat = cmd := hch ▸ toNat_concat_ofNat_mod 0b0100#4 cmd hop.symm
      exact encodeOp_eq_of_word (op := .stick _ _ _) hword rest
    · cases h
  case h_6 hop =>
    cases h
    exact encodeOp_eq_of_word (op := .reserved0101 _) (toNat_concat_ofNat_mod (w := 8) 0b0101#4 cmd hop.symm) rest
  case h_7 hop | h_8 hop =>
    cases h
    have hhigh : 3 = cmd / 512 := by omega
    exact encodeOp_eq_of_word (op := .reserved011x _) (toNat_concat_ofNat_mod (w := 9) 0b011#3 cmd hhigh) rest
  case h_9 =>
    cases h
    have hhigh : 1 = cmd / 2048 := by grind
    exact encodeOp_eq_of_word (op := .reserved1xxx _) (toNat_concat_ofNat_mod (w := 11) 0b1#1 cmd hhigh) rest

/-- Settles O2: what is read fits (the decoder takes as many bits as a field has), and each field that was read is
written back as the same bits. -/
theorem encodeOfDecodedOperation : Obligations.EncodeOfDecodedOperation :=
  fun p bs rest op h => ⟨decodeOp_wf p bs rest op h, decodeOp_bits h⟩

/-! #### The selected row (R95) -/

@[simp] theorem dispatchKey_pushRow (ch : ChField) (data : List Byte) (st : ChState) :
    dispatchKey (pushRow ch data st) = some (0b0001#4 ++ st.code) := by
  cases st <;> rfl

@[simp] theorem dispatchKey_eobRow (ch : ChField) (st : ChState) :
    dispatchKey (eobRow ch st) = some (0b0010#4 ++ st.code) := by
  cases st <;> rfl

@[simp] theorem dispatchKey_ctickRow (ch : ChField) (now : Nat) (st : ChState) :
    dispatchKey (ctickRow ch now st) = some (0b0011#4 ++ st.code) := by
  cases st <;> rfl

/-- The conditions that split `Idle` and `AwaitingResponse` choose between rows of the same key. -/
@[simp] theorem dispatchKey_stickRow (s : State) (now : Nat) (id : IdRsp) (bus : BusRsp) (st : PsState) :
    dispatchKey (stickRow s now id bus st) = some (0b0100#4 ++ st.code) := by
  unfold stickRow
  split
  case h_1 => split <;> rfl
  case h_4 =>
    split
    · rfl
    · split <;> rfl
  all_goals rfl

theorem selectRow_dispatchKey (s : State) (op : Op) (i : Instr) (h : selectRow s op = .ok i) :
    dispatchKey i = s.keyOf op := by
  cases op <;> simp only [selectRow] at h
  case push | eob | ctick =>
    split at h
    · cases h
    · rename_i c hc
      cases h
      simp [State.keyOf, hc]
  case stick =>
    cases h
    simp [State.keyOf]
  all_goals
    cases h
    rfl

theorem selectRow_of_legal (s : State) (op : Op) (h : op.legal s) : ∃ i, selectRow s op = .ok i := by
  cases op
  case push ch data => exact ⟨_, selectRow_push s ch data _ (List.getElem?_eq_getElem h)⟩
  case eob ch => exact ⟨_, selectRow_eob s ch _ (List.getElem?_eq_getElem h)⟩
  case ctick ch now => exact ⟨_, selectRow_ctick s ch now _ (List.getElem?_eq_getElem h)⟩
  case reserved0101 | reserved011x | reserved1xxx => exact h.elim
  all_goals exact ⟨_, rfl⟩

/-- Settles O4: the row carries the operation's operands, and its key is the opcode with the state that selected it. -/
theorem selectedRowHasTheDispatchKey : Obligations.SelectedRowHasTheDispatchKey := by
  refine ⟨fun s op i h => ?_, selectRow_of_legal⟩
  have hop := selectRow_toOp s op i h
  exact ⟨hop, selectRow_dispatchKey s op i h, Instr.wf_of_toOp s.params hop⟩

/-- A row of an operation is presented by the operation's bits. -/
theorem encode_of_toOp (p : Params) {i : Instr} {op : Op} (h : i.toOp = some op) :
    encode p i = .bits (encodeOp p op) := by
  cases i <;> cases h <;> rfl

theorem decode_named_row (s : State) (i : Instr) (h : i.toOp = none) (hwf : i.wf s.params = true) :
    decode s (encode s.params i) = .ok (i, []) := by
  cases i <;> simp only [Instr.toOp, reduceCtorEq] at h
  case reset | frame => rfl
  case loop now id bus => exact if_pos hwf

/-- Settles O3: the bits of a row are those of its operation, which are read back whole and select the row again; the
rows without an operation are presented by name. -/
theorem decodeOfEncodedRow : Obligations.DecodeOfEncodedRow := by
  intro s i hwf hsel
  cases hop : i.toOp with
  | none => exact decode_named_row s i hop hwf
  | some op =>
    have hread := decodeOp_encodeOp s.params op [] (Instr.wf_of_toOp s.params hop ▸ hwf)
    rw [List.append_nil] at hread
    rw [encode_of_toOp s.params hop]
    simp [decode, hread, hsel op hop, leftover]

/-! #### The step (R90, R95) -/

theorem step_of_decode_ok {s : State} {inp : Input} {q left : List Input} {i : Instr} (hin : s.inbox = inp :: q)
    (h : decode s inp = .ok (i, left)) : step s = exec i { s with inbox := left ++ q } := by
  simp [step, State.fetch, hin, h]

theorem step_of_decode_error {s : State} {inp : Input} {q : List Input} {r : Refusal} (hin : s.inbox = inp :: q)
    (h : decode s inp = .error r) : step s = .refused r := by
  simp [step, State.fetch, hin, h]

theorem step_of_inbox_nil {s : State} (hin : s.inbox = []) : step s = exec (.nop 0) s := by
  simp [step, State.fetch, hin]

/-- Settles O11: the three cases of a fetch. -/
theorem stepRunsTheDecodedRow : Obligations.StepRunsTheDecodedRow :=
  ⟨fun _ _ _ _ _ => step_of_decode_ok, fun _ _ _ _ => step_of_decode_error, fun _ => step_of_inbox_nil⟩

/-- Level 1 of decoding, then the operation: the row is selected in the state before the input is taken, which holds
the same units. -/
theorem step_of_decodeOp {s : State} {bs rest : List Bool} {q : List Input} {op : Op} (hin : s.inbox = .bits bs :: q)
    (h : decodeOp s.params bs = .ok (op, rest)) : step s = applyOp { s with inbox := leftover rest ++ q } op := by
  rw [applyOp, selectRow_inbox]
  cases hrow : selectRow s op with
  | error r => exact step_of_decode_error hin (by simp [decode, h, hrow])
  | ok i => exact step_of_decode_ok hin (by simp [decode, h, hrow])

/-- Settles O12: the presented operation is read back (O1) and applied. -/
theorem stepAppliesThePresentedOperation : Obligations.StepAppliesThePresentedOperation :=
  fun s op rest _ hwf hin => step_of_decodeOp hin (decodeOp_encodeOp s.params op rest hwf)

/-- Settles O13: `nop` stands under the guard `ready` only. -/
theorem nopChangesNothing : Obligations.NopChangesNothing := fun s _ hw => ready_of_wf s (.next s) hw

/-! #### What has no step (R96) -/

/-- Settles O6: the meaning of the three reserved rows is the refusal. -/
theorem reservedOpcodesHaveNoStep : Obligations.ReservedOpcodesHaveNoStep :=
  ⟨fun _ _ => rfl, fun _ _ => rfl, fun _ _ => rfl⟩

/-- A command word from `0x500` on is the whole encoding of an operation that no state has a step for (R96 (a)). -/
theorem reserved_word (p : Params) {cmd : Nat} (hlo : 0x500 ≤ cmd) (hhi : cmd < 0x1000) :
    ∃ op, op.wf p = true ∧ encodeOp p op = fieldBits 12 cmd ∧ ∀ s, applyOp s op = .refused .reservedOpcode := by
  have hword : ∃ op, (cmdWord op).toNat = cmd ∧ op.wf p = true ∧ operandBits p op = [] ∧
      ∀ s, applyOp s op = .refused .reservedOpcode := by
    obtain hop | hop | hop : 5 = cmd / 2 ^ 8 ∨ 3 = cmd / 2 ^ 9 ∨ 1 = cmd / 2 ^ 11 := by omega
    · exact ⟨.reserved0101 _, toNat_concat_ofNat_mod 0b0101#4 cmd hop, rfl, rfl, fun _ => rfl⟩
    · exact ⟨.reserved011x _, toNat_concat_ofNat_mod 0b011#3 cmd hop, rfl, rfl, fun _ => rfl⟩
    · exact ⟨.reserved1xxx _, toNat_concat_ofNat_mod 0b1#1 cmd hop, rfl, rfl, fun _ => rfl⟩
  obtain ⟨op, hcmd, hwf, hbits, hrefused⟩ := hword
  exact ⟨op, hwf, by rw [encodeOp, hcmd, hbits, List.append_nil], hrefused⟩

/-- A channel operation whose channel does not exist has no row (R96 (b)). -/
theorem applyOp_noSuchChannel {s : State} {op : Op} {k : Nat} (hu : op.unit = .channel k)
    (hk : s.channels.length ≤ k) : applyOp s op = .refused .noSuchChannel := by
  have hnone : s.channels[k]? = none := List.getElem?_eq_none hk
  cases op <;> simp only [Op.unit, UnitId.channel.injEq, reduceCtorEq] at hu
  all_goals
    subst hu
    simp [applyOp, selectRow, hnone]

/-- A `STICK` with a channel is refused whatever follows (R96 (c)). -/
theorem decodeOp_stick_with_channel (p : Params) (ch : ChField) (rest : List Bool) (h : ch ≠ 0) :
    decodeOp p (fieldBits 12 (0x400 + ch.toNat) ++ rest) = .error .stickWithChannel := by
  have hword : 0x400 + ch.toNat = (0b0100#4 ++ ch).toNat := (toNat_concat 0b0100#4 ch).symm
  rw [hword, decodeOp, takeField_fieldBits_lt 12 _ _ (0b0100#4 ++ ch).isLt]
  simp only [opcode_of_word, channel_of_word]
  exact if_neg h

/-- Settles O7: a reserved word and an operation of an absent channel are read (O12) and then have no step; a `STICK` with
a channel is not read. -/
theorem reservedEncodingsHaveNoStep : Obligations.ReservedEncodingsHaveNoStep := by
  have happly := stepAppliesThePresentedOperation
  refine ⟨?_, ?_, ?_, ?_, ?_⟩
  · intro s q rest cmd hlo hhi hin
    obtain ⟨op, hwf, hbits, hrefused⟩ := reserved_word s.params hlo hhi
    exact (happly s op rest q hwf (hbits ▸ hin)).trans (hrefused _)
  · intro s q rest ch data hlen hch hin
    exact (happly s (.push ch data) rest q (decide_eq_true hlen) hin).trans (applyOp_noSuchChannel rfl hch)
  · intro s q rest ch hch hin
    exact (happly s (.eob ch) rest q rfl hin).trans (applyOp_noSuchChannel rfl hch)
  · intro s q rest ch now hnow hch hin
    exact (happly s (.ctick ch now) rest q (decide_eq_true hnow) hin).trans (applyOp_noSuchChannel rfl hch)
  · intro s q rest ch hch hin
    exact step_of_decode_error hin (by simp [decode, decodeOp_stick_with_channel s.params ch rest hch])

/-! #### The pseudo-operations (R100) -/

theorem exec_loop (now : Nat) (id : IdRsp) (bus : BusRsp) (s : State) :
    exec (.loop now id bus) s = execLoop now id bus s := rfl

theorem exec_frame (ch : ChField) (payload suffix : List Byte) (s : State) :
    exec (.frame ch payload suffix) s = execFrame ch payload suffix s := rfl

/-- Settles O49: the expansion is the list of operations of one iteration, each as its bits. -/
theorem loopPresentsOneIteration : Obligations.LoopPresentsOneIteration := by
  intro s now id bus hw
  rw [exec_loop, execLoop, ready_of_wf _ _ hw]
  simp [State.present, State.iteration, Function.comp_def]

/-- What `frame` answers for a channel that exists: the length of the suffix decides, then that of the frame. -/
theorem exec_frame_of_channel {s : State} {ch : ChField} {c : Channel} (payload suffix : List Byte)
    (hw : configWf s.config = true) (hc : s.channels[ch.toNat]? = some c) :
    exec (.frame ch payload suffix) s =
      if suffix.length ≠ c.cfg.trailer - c.cfg.em.length then .refused .frameSuffixLength
      else if 2 ^ 16 ≤ (c.frameBytes payload suffix).length then .refused .burstTooLong
      else .next (s.present
        [.bits (encodeOp s.params (.push ch (c.frameBytes payload suffix))), .bits (encodeOp s.params (.eob ch))]) := by
  rw [exec_frame, execFrame, ready_of_wf _ _ hw, hc]

/-- Settles O51: the three outcomes of a `frame` for a channel that exists. -/
theorem framePresentsItsExpansion : Obligations.FramePresentsItsExpansion := by
  intro s ch payload suffix c hw hc
  rw [exec_frame_of_channel payload suffix hw hc]
  refine ⟨fun hsuffix hlen => ?_, fun hsuffix => if_pos hsuffix, fun hsuffix hlen => ?_⟩
  · exact (if_neg (not_not_intro hsuffix)).trans (if_neg (Nat.not_le_of_lt hlen))
  · exact (if_neg (not_not_intro hsuffix)).trans (if_pos hlen)

/-! #### Codes and words by name (R89, R90, R99) -/

theorem PollErr.code_ofCode (code : Code) : (PollErr.ofCode code).code = code := by
  unfold PollErr.ofCode
  split_ifs <;> simp_all [PollErr.code]

/-- Settles O8: the name of a code is chosen by comparison with the eight codes of the table. -/
theorem pollingErrorCodesAreNamed : Obligations.PollingErrorCodesAreNamed := by
  refine ⟨PollErr.code_ofCode, rfl, rfl, rfl, rfl, rfl, rfl, rfl, rfl, ?_⟩
  intro code h0 h1 h2 h3 h4 h5 h6 h7
  simp only [PollErr.ofCode, h0, h1, h2, h3, h4, h5, h6, h7, if_false]

/-- Settles O5: each word is read in the state after reset. -/
theorem commandWordsDecode : Obligations.CommandWordsDecode :=
  ⟨rfl, rfl, rfl, rfl, rfl, rfl, rfl, rfl, rfl, rfl⟩

/-- Settles O10: one line of each form is read. -/
theorem traceLinesPresentTheirOperations : Obligations.TraceLinesPresentTheirOperations := by
  refine ⟨?_, ?_, ?_, ?_, ?_, ?_, ?_, ?_⟩ <;> decide

/-! #### The bits of an event (R98)

A field that fits is determined by the bits it begins, and so is a byte string of known length. -/

theorem fieldBits_append_inj {w a b : Nat} {r q : List Bool} (ha : a < 2 ^ w) (hb : b < 2 ^ w)
    (h : fieldBits w a ++ r = fieldBits w b ++ q) : a = b ∧ r = q := by
  have hread := congrArg (takeField w) h
  rw [takeField_fieldBits_lt w a r ha, takeField_fieldBits_lt w b q hb] at hread
  simpa using hread

theorem byteBits_append_inj {d e : List Byte} {r q : List Bool} (hlen : d.length = e.length)
    (h : byteBits d ++ r = byteBits e ++ q) : d = e ∧ r = q := by
  have hread := congrArg (takeBytes d.length) h
  rw [takeBytes_byteBits d r, hlen, takeBytes_byteBits e q] at hread
  simpa using hread

theorem fieldBits_bitVec_append_inj {w : Nat} {a b : BitVec w} {r q : List Bool}
    (h : fieldBits w a.toNat ++ r = fieldBits w b.toNat ++ q) : a = b ∧ r = q := by
  obtain ⟨hab, hrq⟩ := fieldBits_append_inj a.isLt b.isLt h
  exact ⟨BitVec.eq_of_toNat_eq hab, hrq⟩

theorem FramingErr.code_injective : Function.Injective FramingErr.code := by
  intro a b h
  cases a <;> cases b <;> simp only [FramingErr.code] at h ⊢ <;> contradiction

/-- Events of one code are of one kind, and the kind fixes the order and the widths of the fields. -/
theorem Event.fields_append_inj {p : Params} {e f : Event} {r q : List Bool} (hcode : e.code = f.code)
    (he : e.wf p = true) (hf : f.wf p = true) (h : e.fields p ++ r = f.fields p ++ q) : e = f ∧ r = q := by
  cases e <;> cases f <;> simp only [Event.code, BitVec.reduceEq] at hcode
  all_goals
    simp only [Event.wf, Bool.and_eq_true, decide_eq_true_eq] at he hf
    simp only [Event.fields, List.append_assoc] at h
  case decode.decode c len bytes c' len' bytes' =>
    obtain ⟨⟨hc, hl⟩, hb⟩ := he
    obtain ⟨⟨hc', hl'⟩, hb'⟩ := hf
    obtain ⟨rfl, h1⟩ := fieldBits_append_inj hc hc' h
    obtain ⟨rfl, h2⟩ := fieldBits_append_inj hl hl' h1
    obtain ⟨rfl, rfl⟩ := byteBits_append_inj (hb.trans hb'.symm) h2
    exact ⟨rfl, rfl⟩
  case log.log c err c' err' =>
    obtain ⟨rfl, h1⟩ := fieldBits_append_inj he hf h
    obtain ⟨herr, rfl⟩ := fieldBits_bitVec_append_inj h1
    exact ⟨by rw [FramingErr.code_injective herr], rfl⟩
  case enableTx.enableTx | disableTx.disableTx => exact ⟨rfl, h⟩
  case sendRequest.sendRequest addr start count addr' start' count' =>
    obtain ⟨⟨ha, hs⟩, hn⟩ := he
    obtain ⟨⟨ha', hs'⟩, hn'⟩ := hf
    obtain ⟨rfl, h1⟩ := fieldBits_append_inj ha ha' h
    obtain ⟨rfl, h2⟩ := fieldBits_append_inj hs hs' h1
    obtain ⟨rfl, rfl⟩ := fieldBits_append_inj hn hn' h2
    exact ⟨rfl, rfl⟩
  case requestIdentity.requestIdentity addr addr' =>
    obtain ⟨rfl, rfl⟩ := fieldBits_append_inj he hf h
    exact ⟨rfl, rfl⟩
  case publish.publish s a v s' a' v' =>
    obtain ⟨⟨hs, ha⟩, hv⟩ := he
    obtain ⟨⟨hs', ha'⟩, hv'⟩ := hf
    obtain ⟨rfl, h1⟩ := fieldBits_append_inj hs hs' h
    obtain ⟨rfl, h2⟩ := fieldBits_append_inj ha ha' h1
    obtain ⟨rfl, rfl⟩ := fieldBits_append_inj hv hv' h2
    exact ⟨rfl, rfl⟩
  case publishError.publishError s code err succ s' code' err' succ' =>
    obtain ⟨⟨hs, herr⟩, hsucc⟩ := he
    obtain ⟨⟨hs', herr'⟩, hsucc'⟩ := hf
    obtain ⟨rfl, h1⟩ := fieldBits_append_inj hs hs' h
    obtain ⟨rfl, h2⟩ := fieldBits_bitVec_append_inj h1
    obtain ⟨rfl, h3⟩ := fieldBits_append_inj herr herr' h2
    obtain ⟨rfl, rfl⟩ := fieldBits_append_inj hsucc hsucc' h3
    exact ⟨rfl, rfl⟩
  case publishIdentity.publishIdentity s id s' id' =>
    obtain ⟨hs, hid⟩ := he
    obtain ⟨hs', hid'⟩ := hf
    obtain ⟨rfl, h1⟩ := fieldBits_append_inj hs hs' h
    obtain ⟨rfl, rfl⟩ := fieldBits_append_inj hid hid' h1
    exact ⟨rfl, rfl⟩

/-- Settles O9: equal bits begin with equal event codes, then the fields of that kind agree one by one. -/
theorem eventEncodingIsUnambiguous : Obligations.EventEncodingIsUnambiguous := by
  intro p e f r q he hf h
  simp only [Event.bits, List.append_assoc] at h
  obtain ⟨hcode, hfields⟩ := fieldBits_bitVec_append_inj h
  exact Event.fields_append_inj hcode he hf hfields

/-! #### A step emits events that fit (R98; 20_memory.md R76 (c)) -/

/-- The second machine emitted what the first had, then events whose fields fit the widths of the first. -/
def State.EmitsFitting (s t : State) : Prop := ∃ es, t.out = s.out ++ es ∧ ∀ e ∈ es, e.wf s.params = true

theorem State.EmitsFitting.silent {s t : State} (h : t.out = s.out) : s.EmitsFitting t := ⟨[], by simp [h], nofun⟩

theorem State.EmitsFitting.one {s t : State} {e : Event} (h : t.out = s.out ++ [e]) (he : e.wf s.params = true) :
    s.EmitsFitting t := ⟨[e], h, by simpa using he⟩

theorem State.Inv.channel_index_lt {s : State} {k : Nat} {c : Channel} (h : s.Inv) (hc : s.channels[k]? = some c) :
    k < 2 ^ 8 :=
  (lt_of_getElem? hc).trans_le (channels_length_le s h.wf)

theorem State.Inv.slave_index_lt {s : State} {k : Nat} {r : Slave} (h : s.Inv) (hr : s.slaves[k]? = some r) :
    k < 2 ^ 8 :=
  (lt_of_getElem? hr).trans_le (slaves_length_le s h.wf)

theorem State.Inv.log_wf {s : State} {k : Nat} {c : Channel} (h : s.Inv) (hc : s.channels[k]? = some c)
    (err : FramingErr) : (Event.log k err).wf s.params = true :=
  decide_eq_true (h.channel_index_lt hc)

/-- A delivered frame is as long as the cursor, which is at most `CAP` (R8, R30 (a)). -/
theorem State.Inv.decode_wf {s : State} {k : Nat} {c : Channel} {bytes : List Byte} (h : s.Inv)
    (hc : s.channels[k]? = some c) (hb : c.buf.readBytes 0 c.cursor = some bytes) :
    (Event.decode k c.cursor bytes).wf s.params = true := by
  obtain ⟨hlen, -⟩ := (cellsRead_eq_some _ _ _ _).mp hb
  obtain ⟨-, hcap, -⟩ := (channelCfgWf_iff _ _).mp (channelCfgWf_of_config s k c h.wf hc)
  obtain ⟨hcursor, -⟩ := h.channel hc
  simp only [Event.wf, Bool.and_eq_true, decide_eq_true_eq]
  exact ⟨⟨h.channel_index_lt hc, hcursor.trans_lt hcap⟩, hlen⟩

theorem ChannelStep.emitsFitting {s t : State} {op : Op} {k : Nat} {c : Channel} (hs : s.Inv)
    (hc : s.channels[k]? = some c) (h : ChannelStep s op k c t) : s.EmitsFitting t := by
  cases h with
  | same | append | ended | resumed => exact .silent rfl
  | overflow | invalid => exact .one rfl (hs.log_wf hc _)
  | delivered ch now bytes d hop hd hst hb => exact .one rfl (hs.decode_wf hc hb)

theorem State.Inv.requestIdentity_wf {s : State} {k : Nat} {r : Slave} (h : s.Inv) (hr : s.slaves[k]? = some r) :
    (Event.requestIdentity r.cfg.addr).wf s.params = true := by
  obtain ⟨haddr, -⟩ := (slaveCfgWf_iff _ _).mp (slaveCfgWf_of_config s k r h.wf hr)
  exact decide_eq_true haddr

/-- A register block ends at or below `2^REG_ADDR_W` (R9), so its count may need one more bit than its start. -/
theorem State.Inv.sendRequest_wf {s : State} {k j : Nat} {r : Slave} {b : Block} (h : s.Inv)
    (hr : s.slaves[k]? = some r) (hb : r.cfg.blocks[j]? = some b) :
    (Event.sendRequest r.cfg.addr b.start b.count).wf s.params = true := by
  obtain ⟨haddr, -, -, hblocks, -⟩ := (slaveCfgWf_iff _ _).mp (slaveCfgWf_of_config s k r h.wf hr)
  obtain ⟨hcount, hend⟩ := hblocks b (List.mem_of_getElem? hb)
  have hpow : 2 ^ (s.params.regAddrW + 1) = 2 * 2 ^ s.params.regAddrW := Nat.pow_succ'
  simp only [Event.wf, Bool.and_eq_true, decide_eq_true_eq]
  exact ⟨⟨haddr, by omega⟩, by omega⟩

/-- A value of the map stands at an address of the polled slave's blocks (R48 (d)). -/
theorem State.Inv.publish_wf {s : State} {a v : Nat} (h : s.Inv) (hst : s.ps.state ≠ .idle)
    (hm : s.ps.map.least = some (a, v)) : (Event.publish s.ps.curSlave a v).wf s.params = true := by
  have hmem : (a, v) ∈ s.ps.map := List.mem_of_head? hm
  obtain ⟨-, hval, -⟩ := h.scheduler.map_fits
  obtain ⟨-, -, -, -, hcyc⟩ := id h
  obtain ⟨r, hr, -, -, -, haddr⟩ := hcyc hst
  obtain ⟨-, -, -, hblocks, -⟩ := (slaveCfgWf_iff _ _).mp (slaveCfgWf_of_config s _ r h.wf hr)
  obtain ⟨b, hb, -, hlt⟩ := (mem_slaveAddrs r.cfg a).mp (haddr _ hmem)
  obtain ⟨-, hend⟩ := hblocks b hb
  simp only [Event.wf, Bool.and_eq_true, decide_eq_true_eq]
  exact ⟨⟨h.slave_index_lt hr, hlt.trans_le hend⟩, hval _ hmem⟩

theorem State.Inv.publishError_wf {s : State} {k : Nat} {r : Slave} (h : s.Inv) (hr : s.slaves[k]? = some r) :
    (Event.publishError k r.lastErr r.errCnt r.succCnt).wf s.params = true := by
  obtain ⟨-, -, -, hsucc, herr⟩ := h.slave hr
  simp only [Event.wf, Bool.and_eq_true, decide_eq_true_eq]
  exact ⟨⟨h.slave_index_lt hr, herr⟩, hsucc⟩

theorem State.Inv.publishIdentity_wf {s : State} {k : Nat} {r : Slave} (h : s.Inv) (hr : s.slaves[k]? = some r) :
    (Event.publishIdentity k r.idVal).wf s.params = true := by
  obtain ⟨-, hid, -⟩ := h.slave hr
  simp only [Event.wf, Bool.and_eq_true, decide_eq_true_eq]
  exact ⟨h.slave_index_lt hr, hid⟩

theorem SchedulerStep.emitsFitting {s t : State} {now : Nat} {id : IdRsp} {bus : BusRsp} (hs : s.Inv)
    (h : SchedulerStep s now id bus t) : s.EmitsFitting t := by
  cases h with
  | query u r hst hu => exact .one rfl (hs.requestIdentity_wf ((s.leastUndiscovered_eq_some u r).mp hu).1)
  | prepare => exact .one rfl rfl
  | send r b hst hr hb => exact ⟨_, rfl, by simpa using ⟨hs.sendRequest_wf hr hb, rfl⟩⟩
  | summary r hst ht hr => exact .one rfl (hs.publishError_wf hr)
  | value a v hst ht hm => exact .one rfl (hs.publish_wf (by simp [hst]) hm)
  | identity r hst ht hm hr => exact .one rfl (hs.publishIdentity_wf hr)
  | rest | start | settle | latch | timeout | wait | decoded | rejected | nextBlock | lastBlock | finish =>
    exact .silent rfl

theorem exec_emitsFitting {s t : State} {i : Instr} (hs : s.Inv) (h : exec i s = .next t) : s.EmitsFitting t := by
  obtain ⟨-, hstep⟩ := exec_cases s t i h
  cases hstep with
  | nothing | reset | expanded => exact .silent rfl
  | channel op k c _ hop hu hc hstep => exact hstep.emitsFitting hs hc
  | scheduler now id bus _ hop hstep => exact hstep.emitsFitting hs

/-- Settles O57: only a row emits, a fetch does not, and the fields of each event are registers or configuration values
that the invariant bounds. -/
theorem eventsFitTheirFields : Obligations.EventsFitTheirFields := by
  intro s t hs h
  obtain ⟨i, u, hf, hx⟩ := (step_eq_next s t).mp h
  obtain ⟨q, rfl⟩ := s.fetch_state u i hf
  exact exec_emitsFitting (s := { s with inbox := q }) ((s.inv_inbox q).mpr hs) hx

end Sys2Proof.Machine

/-! ### The Channel machine (40_channel.md)

A row in the state its key names is what stands under its guard, so each rule of R106 to R115 is read off the shared
operation the row calls. A delivery hands over what the buffer holds; a frame pushed into an empty channel is what the
buffer holds, and it validates. -/

namespace Sys2Proof.Machine

open Sys2Proof

/-! #### A row in the state its key names -/

theorem onChannel_of_state {s : State} {ch : ChField} {c : Channel} {st : ChState} (k : Channel → Result)
    (hw : configWf s.config = true) (hc : s.channels[ch.toNat]? = some c) (hst : c.state = st) :
    onChannel s ch st k = k c :=
  hst ▸ onChannel_of s ch c k hw hc

/-- The record after the burst sequence has ended (R109). -/
def Channel.ended (c : Channel) : Channel := { c with state := .validating }

@[simp] theorem Channel.ended_cfg (c : Channel) : c.ended.cfg = c.cfg := rfl
@[simp] theorem Channel.ended_state (c : Channel) : c.ended.state = .validating := rfl
@[simp] theorem Channel.ended_cursor (c : Channel) : c.ended.cursor = c.cursor := rfl
@[simp] theorem Channel.ended_buf (c : Channel) : c.ended.buf = c.buf := rfl
@[simp] theorem Channel.ended_resume (c : Channel) : c.ended.resume = c.resume := rfl

section Rows

variable {s : State} {ch : ChField} {c : Channel}

theorem exec_pushIdle (data : List Byte) (hw : configWf s.config = true) (hc : s.channels[ch.toNat]? = some c)
    (hst : c.state = .idle) : exec (.pushIdle ch data) s = .next (s.acceptBurst ch.toNat c data) :=
  onChannel_of_state _ hw hc hst

theorem exec_pushCollecting (data : List Byte) (hw : configWf s.config = true)
    (hc : s.channels[ch.toNat]? = some c) (hst : c.state = .collecting) :
    exec (.pushCollecting ch data) s = .next (s.acceptBurst ch.toNat c data) :=
  onChannel_of_state _ hw hc hst

theorem exec_eobCollecting (hw : configWf s.config = true) (hc : s.channels[ch.toNat]? = some c)
    (hst : c.state = .collecting) :
    exec (.eobCollecting ch) s = .next (s.setChannel ch.toNat c.ended) :=
  onChannel_of_state _ hw hc hst

theorem exec_ctickDelivering (now : Nat) (hw : configWf s.config = true) (hc : s.channels[ch.toNat]? = some c)
    (hst : c.state = .delivering) : exec (.ctickDelivering ch now) s = s.deliver ch.toNat c now :=
  onChannel_of_state _ hw hc hst

theorem exec_ctickThrottled (now : Nat) (hw : configWf s.config = true) (hc : s.channels[ch.toNat]? = some c)
    (hst : c.state = .throttled) :
    exec (.ctickThrottled ch now) s =
      .next (if reached s.params now c.resume then s.setChannel ch.toNat c.discard else s) :=
  onChannel_of_state _ hw hc hst

/-- A delivery does not look at the state the channel is in. -/
theorem State.deliver_with_state (s : State) (i : Nat) (c : Channel) (st : ChState) (now : Nat) :
    s.deliver i { c with state := st } now = s.deliver i c now := rfl

theorem exec_ctickValidating_bad {err : FramingErr} (now : Nat) (hw : configWf s.config = true)
    (hc : s.channels[ch.toNat]? = some c) (hst : c.state = .validating) (hv : c.validate = .bad err) :
    exec (.ctickValidating ch now) s = .next (s.framingError ch.toNat c err) := by
  simp only [exec, execCtickValidating, onChannel_of_state _ hw hc hst, hv]

theorem exec_ctickValidating_good (now : Nat) (hw : configWf s.config = true)
    (hc : s.channels[ch.toNat]? = some c) (hst : c.state = .validating) (hv : c.validate = .good) :
    exec (.ctickValidating ch now) s = s.deliver ch.toNat c now := by
  simp only [exec, execCtickValidating, onChannel_of_state _ hw hc hst, hv, State.deliver_with_state]

end Rows

/-! #### `PUSH` (R106 to R108) -/

theorem State.framingError_eq (s : State) (i : Nat) (c : Channel) (err : FramingErr) :
    s.framingError i c err =
      { s with
        channels := s.channels.set i { c with cursor := 0, buf := [], state := .idle }
        out := s.out ++ [.log i err] } := rfl

/-- Settles O17: the row is the arrival of a burst. -/
theorem pushInIdle : Obligations.PushInIdle := by
  intro s ch data c hw hc hst
  rw [exec_pushIdle data hw hc hst, State.acceptBurst, State.framingError_eq]
  rfl

/-- A channel that collects already stays in `Collecting`. -/
theorem Channel.append_of_collecting {c : Channel} (data : List Byte) (hst : c.state = .collecting) :
    c.append data = { c with buf := c.buf.writeBytes c.cursor data, cursor := c.cursor + data.length } := by
  rw [Channel.append, ← hst]

/-- Settles O18: the arrival of a burst again; the channel is in `Collecting` before and after an append. -/
theorem pushInCollecting : Obligations.PushInCollecting := by
  intro s ch data c hw hc hst
  rw [exec_pushCollecting data hw hc hst, State.acceptBurst, State.framingError_eq,
    Channel.append_of_collecting data hst]
  rfl

/-- Settles O19: the three rows answer the state they find. -/
theorem pushElsewhereIsDropped : Obligations.PushElsewhereIsDropped := by
  intro s ch data c hw hc
  exact ⟨onChannel_of_state _ hw hc, onChannel_of_state _ hw hc, onChannel_of_state _ hw hc⟩

/-! #### `EOB` (R109, R110) and the ticks without effect (R111) -/

/-- Settles O20: the row replaces the record by itself in `Validating`. -/
theorem endOfBurstInCollecting : Obligations.EndOfBurstInCollecting := by
  intro s ch c hw hc hst
  exact exec_eobCollecting hw hc hst

/-- Settles O21: the four rows answer the state they find. -/
theorem endOfBurstElsewhereDoesNothing : Obligations.EndOfBurstElsewhereDoesNothing := by
  intro s ch c hw hc
  exact ⟨onChannel_of_state _ hw hc, onChannel_of_state _ hw hc, onChannel_of_state _ hw hc,
    onChannel_of_state _ hw hc⟩

/-- Settles O22: the two rows answer the state they find. -/
theorem tickInIdleOrCollectingDoesNothing : Obligations.TickInIdleOrCollectingDoesNothing := by
  intro s ch now c hw hc
  exact ⟨onChannel_of_state _ hw hc, onChannel_of_state _ hw hc⟩

/-! #### Validation (R112) -/

/-- A window of a buffer that holds a value at every offset below `n` is all there, and it is `w` exactly when every
byte is. -/
theorem Memory.readBytes_of_full {m : Memory} {n off k : Nat} (hm : m.map Prod.fst = List.range n)
    (hk : off + k ≤ n) :
    ∃ d, m.readBytes off k = some d ∧
      ∀ w : List Byte, w.length = k → (d = w ↔ ∀ i < k, m.read (off + i) = w[i]?) := by
  obtain ⟨d, hd⟩ := cellsRead_window n m hm off k hk
  refine ⟨d, hd, fun w hw => ?_⟩
  have hwindow := Memory.readBytes_eq_some m off k w
  rw [Memory.readBytes, hd, Option.some.injEq] at hwindow
  rw [hwindow, and_iff_right hw]

/-- Validation of a buffer that is long enough compares the two windows, the start first. -/
theorem Channel.validate_of_windows {c : Channel} {start stop : List Byte}
    (hlong : ¬c.cursor < c.cfg.sm.length + c.cfg.trailer)
    (hstart : c.buf.readBytes 0 c.cfg.sm.length = some start)
    (hstop : c.buf.readBytes (c.cursor - c.cfg.trailer) c.cfg.em.length = some stop) :
    c.validate =
      if start ≠ c.cfg.sm then .bad .startMarkerMismatch
      else if stop ≠ c.cfg.em then .bad .endMarkerMismatch
      else .good := by
  simp only [Channel.validate, if_neg hlong, hstart, hstop]

/-- Settles O23: both windows lie below the cursor, since `EML ≤ TRAILER` (R10 (b)), so they are read whole and
compared byte by byte. -/
theorem validationAlgorithm : Obligations.ValidationAlgorithm := by
  intro p c hcfg hfull short startOk endOk
  refine ⟨fun h => if_pos h, ?_⟩
  by_cases hlong : short
  · exact ⟨fun h => absurd hlong h, fun h => absurd hlong h, fun h => absurd hlong h⟩
  obtain ⟨-, -, -, -, -, -, -, hem, -⟩ := (channelCfgWf_iff p c.cfg).mp hcfg
  have hlen : c.cfg.sm.length + c.cfg.trailer ≤ c.cursor := Nat.le_of_not_lt hlong
  obtain ⟨start, hstart, hstartIff⟩ :=
    Memory.readBytes_of_full (off := 0) (k := c.cfg.sm.length) hfull (by omega)
  obtain ⟨stop, hstop, hstopIff⟩ :=
    Memory.readBytes_of_full (off := c.cursor - c.cfg.trailer) (k := c.cfg.em.length) hfull (by omega)
  have hs : start = c.cfg.sm ↔ startOk := by simpa only [Nat.zero_add] using hstartIff c.cfg.sm rfl
  have he : stop = c.cfg.em ↔ endOk := hstopIff c.cfg.em rfl
  rw [Channel.validate_of_windows hlong hstart hstop]
  refine ⟨fun _ hbad => ?_, fun _ hok hbad => ?_, fun _ hok hok' => ?_⟩
  · rw [if_pos (mt hs.mp hbad)]
  · rw [if_neg (not_not.mpr (hs.mpr hok)), if_pos (mt he.mp hbad)]
  · rw [if_neg (not_not.mpr (hs.mpr hok)), if_neg (not_not.mpr (he.mpr hok'))]

/-! #### `CTICK` where it does something (R113 to R115) -/

/-- Settles O24: the verdict decides the row, and a buffer full below the cursor has a verdict. -/
theorem tickInValidating : Obligations.TickInValidating := by
  intro s ch now c hw hc hst hfull
  refine ⟨fun err hv => exec_ctickValidating_bad now hw hc hst hv, fun hv => ?_, ?_⟩
  · rw [exec_ctickValidating_good now hw hc hst hv]
    exact s.deliver_of_full ch.toNat c now hfull
  · have hdefined := c.validate_defined s.params (channelCfgWf_of_config s _ c hw hc) hfull
    cases hv : c.validate with
    | good => exact .inr rfl
    | bad err => exact .inl ⟨err, rfl⟩
    | undefinedWindow => exact absurd hv hdefined

/-- Settles O25: the row is the delivery of a buffer full below the cursor. -/
theorem tickInDelivering : Obligations.TickInDelivering := by
  intro s ch now c hw hc hst hfull
  rw [exec_ctickDelivering now hw hc hst]
  exact s.deliver_of_full ch.toNat c now hfull

/-- Settles O26: the row discards at the deadline and answers the state it finds before it. -/
theorem tickInThrottled : Obligations.TickInThrottled := by
  intro s ch now c hw hc hst
  exact exec_ctickThrottled now hw hc hst

/-- Settles O30: validation reports the start window (O23, its second clause), and the framing error discards. -/
theorem wrongStartMarkerIsDiscarded : Obligations.WrongStartMarkerIsDiscarded := by
  intro s ch c now i hw hc hst hfull hlen hi hne
  obtain ⟨-, hmismatch, -⟩ := validationAlgorithm s.params c (channelCfgWf_of_config s _ c hw hc) hfull
  have hv := hmismatch (Nat.not_lt.mpr hlen) fun hok => hne (hok i hi)
  refine ⟨s.framingError ch.toNat c .startMarkerMismatch, ?_, rfl, getElem?_set_at hc⟩
  rw [applyOp_of_row s _ _ (selectRow_ctick s ch now c hc), hst]
  exact exec_ctickValidating_bad now hw hc hst hv

/-! #### The throttle law (R12, R115)

With a deadline armed at `t0 + d`, what has elapsed since the deadline is what has elapsed since `t0` less `d`, modulo
`2^TIME_W`. -/

theorem elapsed_tadd_cast (p : Params) (now t0 d : Nat) :
    (elapsed p now (tadd p t0 d) : Int) = ((elapsed p now t0 : Int) - d) % ((2 ^ p.timeW : Nat) : Int) := by
  rw [elapsed_cast, elapsed_cast, tadd_cast, Int.sub_emod_emod, Int.emod_sub_emod, Int.sub_sub]

theorem elapsed_tadd_of_le {p : Params} {now t0 d : Nat} (h : d ≤ elapsed p now t0) :
    elapsed p now (tadd p t0 d) = elapsed p now t0 - d := by
  have hlt := elapsed_lt p now t0
  have hcast := elapsed_tadd_cast p now t0 d
  rw [Int.emod_eq_of_lt (by omega) (by omega)] at hcast
  omega

theorem elapsed_tadd_of_lt {p : Params} {now t0 d : Nat} (h : elapsed p now t0 < d) (hd : d < 2 ^ p.timeW) :
    elapsed p now (tadd p t0 d) = elapsed p now t0 + 2 ^ p.timeW - d := by
  have hcast := elapsed_tadd_cast p now t0 d
  rw [← Int.add_emod_right, Int.emod_eq_of_lt (by omega) (by omega)] at hcast
  omega

/-- A deadline less than half the modulus ahead is not reached before the interval has elapsed. -/
theorem reached_tadd_of_lt {p : Params} {now t0 d : Nat} (h : elapsed p now t0 < d) (hd : 2 * d < 2 ^ p.timeW) :
    reached p now (tadd p t0 d) = false := by
  rw [Bool.eq_false_iff, ne_eq, reached_iff, elapsed_tadd_of_lt h (by omega)]
  omega

theorem reached_tadd_of_le {p : Params} {now t0 d : Nat} (h : d ≤ elapsed p now t0)
    (hlate : 2 * (elapsed p now t0 - d) < 2 ^ p.timeW) : reached p now (tadd p t0 d) = true := by
  rwa [reached_iff, elapsed_tadd_of_le h]

/-- Settles O31: `THROTTLE` is below half the modulus (R8), so the deadline is reached exactly from the interval on,
within the horizon. -/
theorem throttleLaw : Obligations.ThrottleLaw := by
  intro s ch c t0 now data hw hc hst hresume
  obtain ⟨-, -, -, hhalf, -⟩ := (channelCfgWf_iff _ _).mp (channelCfgWf_of_config s _ c hw hc)
  have htick := exec_ctickThrottled now hw hc hst
  rw [hresume] at htick
  refine ⟨onChannel_of_state _ hw hc hst, fun hearly => ?_, fun hdue hlate => ?_⟩
  · rw [htick, reached_tadd_of_lt hearly hhalf]
    rfl
  · rw [htick, reached_tadd_of_le hdue hlate]
    rfl

/-! #### What every channel row leaves alone (R105, R117) -/

/-- The ways an operation leaves the record of its channel: at most its state changed, a burst appended, the buffer
discarded by an overflow or a tick, the throttle deadline armed by a delivery. -/
inductive RecordStep (p : Params) (op : Op) (c : Channel) : Channel → Prop
  | kept (st : ChState) : RecordStep p op c { c with state := st }
  | appended (ch : ChField) (data : List Byte) (hop : op = .push ch data) (hn : data.length ≠ 0)
      (hst : c.state = .idle ∨ c.state = .collecting) (hfit : c.cursor + data.length ≤ c.cfg.cap) :
      RecordStep p op c (c.append data)
  | overflowed (ch : ChField) (data : List Byte) (hop : op = .push ch data)
      (hst : c.state = .idle ∨ c.state = .collecting) (hbig : c.cfg.cap < c.cursor + data.length) :
      RecordStep p op c c.discard
  | discarded (ch : ChField) (now : Nat) (hop : op = .ctick ch now)
      (hst : c.state = .validating ∨ c.state = .delivering ∨ c.state = .throttled) : RecordStep p op c c.discard
  | throttled (ch : ChField) (now : Nat) (hop : op = .ctick ch now)
      (hst : c.state = .validating ∨ c.state = .delivering) :
      RecordStep p op c { c with resume := tadd p now c.cfg.throttle, state := .throttled }

/-- A delivery throttles or discards, whether or not the record is already marked as delivering. -/
theorem RecordStep.of_delivered {p : Params} {op : Op} {c d : Channel} {ch : ChField} {now : Nat}
    (hop : op = .ctick ch now) (hd : d = c ∨ d = { c with state := .delivering })
    (hst : c.state = .validating ∨ c.state = .delivering) : RecordStep p op c (d.delivered p now) := by
  have heq : d.delivered p now = c.delivered p now := by obtain rfl | rfl := hd <;> rfl
  obtain ⟨-, e⟩ | ⟨-, e⟩ := Channel.delivered_cases p c now <;> rw [heq, e]
  · exact .throttled ch now hop hst
  · exact .discarded ch now hop (hst.imp_right .inl)

theorem ChannelStep.record {s t : State} {op : Op} {k : Nat} {c : Channel} (hc : s.channels[k]? = some c)
    (h : ChannelStep s op k c t) : ∃ d, t.channels[k]? = some d ∧ RecordStep s.params op c d := by
  cases h with
  | same => exact ⟨c, hc, .kept c.state⟩
  | append ch data hop hn hfit hst => exact ⟨_, getElem?_set_at hc, .appended ch data hop hn hst hfit⟩
  | overflow ch data hop hbig hst => exact ⟨_, getElem?_set_at hc, .overflowed ch data hop hst hbig⟩
  | invalid ch now err hop hst => exact ⟨_, getElem?_set_at hc, .discarded ch now hop (.inl hst)⟩
  | ended => exact ⟨_, getElem?_set_at hc, .kept .validating⟩
  | delivered ch now bytes d hop hd hst => exact ⟨_, getElem?_set_at hc, .of_delivered hop hd hst⟩
  | resumed ch now hop hst => exact ⟨_, getElem?_set_at hc, .discarded ch now hop (.inr (.inr hst))⟩

theorem ChannelStep.emits_le_one {s t : State} {op : Op} {k : Nat} {c : Channel} (h : ChannelStep s op k c t) :
    ∃ es, t.out = s.out ++ es ∧ es.length ≤ 1 := by
  cases h with
  | same | append | ended | resumed => exact ⟨[], (List.append_nil _).symm, Nat.zero_le _⟩
  | overflow | invalid | delivered => exact ⟨[_], rfl, Nat.le_refl _⟩

section RecordStep

variable {p : Params} {op : Op} {c d : Channel}

theorem RecordStep.cfg_eq (h : RecordStep p op c d) : d.cfg = c.cfg := by
  cases h <;> rfl

theorem RecordStep.resume_cases (h : RecordStep p op c d) :
    d.resume = c.resume ∨
      ∃ ch now, op = .ctick ch now ∧ (c.state = .validating ∨ c.state = .delivering) ∧
        d.state = .throttled ∧ d.resume = tadd p now c.cfg.throttle := by
  cases h with
  | kept | appended | overflowed | discarded => exact .inl rfl
  | throttled ch now hop hst => exact .inr ⟨ch, now, hop, hst, rfl, rfl⟩

theorem RecordStep.buffer_cases (h : RecordStep p op c d) :
    (d.cursor = c.cursor ∧ ∀ a, d.buf.read a = c.buf.read a) ∨
    (∃ ch data, op = .push ch data ∧ data.length ≠ 0 ∧ (c.state = .idle ∨ c.state = .collecting) ∧
      c.cursor + data.length ≤ c.cfg.cap ∧ d.state = .collecting ∧ d.cursor = c.cursor + data.length ∧
      ∀ a, d.buf.read a =
        if c.cursor ≤ a ∧ a < c.cursor + data.length then data[a - c.cursor]? else c.buf.read a) ∨
    (d.state = .idle ∧ d.cursor = 0 ∧ (∀ a, d.buf.read a = none) ∧
      ((∃ ch data, op = .push ch data ∧ (c.state = .idle ∨ c.state = .collecting) ∧
          c.cfg.cap < c.cursor + data.length) ∨
        ∃ ch now, op = .ctick ch now ∧
          (c.state = .validating ∨ c.state = .delivering ∨ c.state = .throttled))) := by
  cases h with
  | kept | throttled => exact .inl ⟨rfl, fun _ => rfl⟩
  | appended ch data hop hn hst hfit =>
    exact .inr (.inl ⟨ch, data, hop, hn, hst, hfit, rfl, rfl, c.buf.read_writeBytes c.cursor data⟩)
  | overflowed ch data hop hst hbig =>
    exact .inr (.inr ⟨rfl, rfl, fun _ => rfl, .inl ⟨ch, data, hop, hst, hbig⟩⟩)
  | discarded ch now hop hst => exact .inr (.inr ⟨rfl, rfl, fun _ => rfl, .inr ⟨ch, now, hop, hst⟩⟩)

end RecordStep

/-- A machine of the same configuration has as many channels. -/
theorem State.channels_length_of_config {s t : State} (h : t.config = s.config) :
    t.channels.length = s.channels.length := by
  simpa [State.config] using congrArg (fun g : Config => g.channels.length) h

/-- Settles O27: a channel row is a step of its channel, which touches no other unit and leaves its own record in one of
the ways of `RecordStep`. -/
theorem channelRowsFrame : Obligations.ChannelRowsFrame := by
  intro s t i op k hop hu h
  obtain ⟨-, c, hc, hstep⟩ := exec_channel_cases s t i op k hop hu h
  have hoff := hstep.sameOff hc
  obtain ⟨hslaves, hps⟩ := hoff.sameAt .scheduler nofun
  refine ⟨congrArg Config.params hoff.config, hslaves.symm, hps.symm, hoff.inbox, hoff.resets,
    State.channels_length_of_config hoff.config, fun j hj => ?_, hstep.emits_le_one, fun c' d hc' hd => ?_⟩
  · exact (hoff.sameAt (.channel j) (mt UnitId.channel.inj hj)).symm
  · obtain rfl : c = c' := Option.some.inj (hc.symm.trans hc')
    obtain ⟨d', hd', hrecord⟩ := hstep.record hc
    obtain rfl : d' = d := Option.some.inj (hd'.symm.trans hd)
    exact ⟨hrecord.cfg_eq, hrecord.resume_cases, hrecord.buffer_cases⟩

/-! #### A frame from burst to delivery (R106, R109, R113, R114) -/

/-- The buffer of the channel holds exactly the bytes `d`, from offset 0 (R28). -/
structure Channel.Holds (c : Channel) (d : List Byte) : Prop where
  cursor : c.cursor = d.length
  full : c.buf.map Prod.fst = List.range c.cursor
  read : ∀ i, c.buf.read i = d[i]?

theorem Channel.holds_append_of_empty {c : Channel} (d : List Byte) (hcur : c.cursor = 0) (hbuf : c.buf = []) :
    (c.append d).Holds d where
  cursor := by simp [hcur]
  full := cellsPutAll_keys d c.cursor c.buf (by simp [hcur, hbuf])
  read i := by
    rw [Channel.append_buf, Memory.read_writeBytes, hcur, hbuf]
    split
    · rfl
    · rw [List.getElem?_eq_none (by omega)]
      rfl

theorem Channel.Holds.ended {c : Channel} {d : List Byte} (h : c.Holds d) : c.ended.Holds d :=
  ⟨h.cursor, h.full, h.read⟩

/-- The end marker of a frame stands `TRAILER` bytes before its end, where the suffix has `TRAILER - EML` bytes. -/
theorem frame_getElem?_end {sm payload em suffix : List Byte} {i : Nat} (hi : i < em.length) :
    (sm ++ payload ++ em ++ suffix)[sm.length + payload.length + i]? = em[i]? := by
  rw [List.append_assoc (sm ++ payload), List.getElem?_append_right (by simp), List.getElem?_append_left (by simpa)]
  simp

theorem Channel.Holds.validate_frame {p : Params} {c : Channel} {payload suffix : List Byte}
    (hcfg : channelCfgWf p c.cfg = true) (hsuffix : suffix.length = c.cfg.trailer - c.cfg.em.length)
    (h : c.Holds (c.cfg.sm ++ payload ++ c.cfg.em ++ suffix)) : c.validate = .good := by
  obtain ⟨-, -, -, -, -, -, -, hem, -⟩ := (channelCfgWf_iff p c.cfg).mp hcfg
  obtain ⟨-, -, -, hgood⟩ := validationAlgorithm p c hcfg h.full
  have hcur : c.cursor = c.cfg.sm.length + payload.length + c.cfg.trailer := by
    rw [h.cursor]
    simp only [List.length_append]
    omega
  refine hgood (by omega) (fun i hi => ?_) fun i hi => ?_
  · rw [h.read, List.append_assoc, List.append_assoc, List.getElem?_append_left hi]
  · rw [hcur, Nat.add_sub_cancel, h.read, frame_getElem?_end hi]

theorem Channel.Holds.deliver {c : Channel} {d : List Byte} (h : c.Holds d) (s : State) (i now : Nat) :
    s.deliver i c now = .next ((s.setChannel i (c.delivered s.params now)).emit [.decode i d.length d]) := by
  have hread : c.buf.readBytes 0 c.cursor = some d :=
    (Memory.readBytes_eq_some _ _ _ _).mpr ⟨h.cursor.symm, fun i _ => by rw [Nat.zero_add, h.read]⟩
  rw [← h.cursor, State.deliver_eq_next]
  exact ⟨d, hread, rfl⟩

theorem Channel.delivered_state (p : Params) (c : Channel) (now : Nat) :
    (c.delivered p now).state = if 0 < c.cfg.throttle then .throttled else .idle := by
  unfold Channel.delivered
  split <;> rfl

theorem configWf_setChannel {s : State} {i : Nat} {c : Channel} (d : Channel)
    (hw : configWf s.config = true) (hc : s.channels[i]? = some c) (hd : d.cfg = c.cfg) :
    configWf (s.setChannel i d).config = true := by
  rw [s.setChannel_config i c d hc hd, hw]

/-- `PUSH` of a whole frame into an idle channel, then `EOB` (R106, R109). -/
theorem applyAll_push_eob {s : State} {ch : ChField} {c : Channel} {frame : List Byte} (ops : List Op)
    (hw : configWf s.config = true) (hc : s.channels[ch.toNat]? = some c) (hst : c.state = .idle) (hne : frame ≠ [])
    (hfit : c.cursor + frame.length ≤ c.cfg.cap) :
    applyAll s (.push ch frame :: .eob ch :: ops) =
      applyAll (s.setChannel ch.toNat (c.append frame).ended) ops := by
  have hpush : applyOp s (.push ch frame) = .next (s.setChannel ch.toNat (c.append frame)) := by
    rw [applyOp_push_of_accepts frame hc (.inl hst), ready_of_wf _ _ hw, s.acceptBurst_of_fits _ hne hfit]
  have hc' : (s.setChannel ch.toNat (c.append frame)).channels[ch.toNat]? = some (c.append frame) :=
    getElem?_set_at hc
  have heob : applyOp (s.setChannel ch.toNat (c.append frame)) (.eob ch) =
      .next (s.setChannel ch.toNat (c.append frame).ended) := by
    rw [applyOp_of_row _ _ _ (selectRow_eob _ ch _ hc'), Channel.append_state, eobRow,
      exec_eobCollecting (configWf_setChannel (c.append frame) hw hc rfl) hc' rfl, State.setChannel_setChannel]
  rw [applyAll_cons_of_next _ hpush, applyAll_cons_of_next _ heob]

/-- A tick emits nothing where there is no buffer to deliver, whatever the time (R111, R115). -/
theorem applyOp_ctick_silent {s : State} {ch : ChField} {c : Channel} (now : Nat) (hw : configWf s.config = true)
    (hc : s.channels[ch.toNat]? = some c) (hst : c.state = .throttled ∨ c.state = .idle) :
    ∃ u, applyOp s (.ctick ch now) = .next u ∧ u.out = s.out := by
  rw [applyOp_of_row s _ _ (selectRow_ctick s ch now c hc)]
  obtain hst | hst := hst <;> rw [hst]
  · refine ⟨_, exec_ctickThrottled now hw hc hst, ?_⟩
    split <;> rfl
  · exact ⟨s, onChannel_of_state _ hw hc hst, rfl⟩

/-- A channel in `Validating` that holds a valid buffer delivers it at the next tick, and is silent at one more. -/
theorem Channel.Holds.tick_delivers {s : State} {ch : ChField} {c : Channel} {d : List Byte} (h : c.Holds d) (now : Nat)
    (hw : configWf s.config = true) (hc : s.channels[ch.toNat]? = some c) (hst : c.state = .validating)
    (hv : c.validate = .good) :
    ∃ t u e, applyOp s (.ctick ch now) = .next t ∧ t.out = s.out ++ [.decode ch.toNat d.length d] ∧
      t.channels[ch.toNat]? = some e ∧ e.state = (if 0 < c.cfg.throttle then .throttled else .idle) ∧
      applyOp t (.ctick ch now) = .next u ∧ u.out = t.out := by
  have htick : applyOp s (.ctick ch now) =
      .next ((s.setChannel ch.toNat (c.delivered s.params now)).emit [.decode ch.toNat d.length d]) := by
    rw [applyOp_of_row s _ _ (selectRow_ctick s ch now c hc), hst, ← h.deliver]
    exact exec_ctickValidating_good now hw hc hst hv
  have hw' : configWf (s.setChannel ch.toNat (c.delivered s.params now)).config = true :=
    configWf_setChannel _ hw hc (c.delivered_cfg s.params now)
  have hstate := c.delivered_state s.params now
  have hrest : (c.delivered s.params now).state = .throttled ∨ (c.delivered s.params now).state = .idle := by
    rw [hstate]
    split
    exacts [.inl rfl, .inr rfl]
  obtain ⟨u, hu, hout⟩ := applyOp_ctick_silent
    (s := (s.setChannel ch.toNat (c.delivered s.params now)).emit [.decode ch.toNat d.length d]) now hw'
    (getElem?_set_at hc) hrest
  exact ⟨_, u, _, htick, rfl, getElem?_set_at hc, hstate, hu, hout⟩

/-- Settles O29: burst and end of burst leave the frame in the buffer, the frame validates, and the tick delivers what
the buffer holds. -/
theorem frameRoundTrip : Obligations.FrameRoundTrip := by
  intro s ch c payload suffix now hw hc hst hcur hbuf hsuffix hfit
  have hcfg := channelCfgWf_of_config s _ c hw hc
  obtain ⟨-, -, -, -, -, hsm, -⟩ := (channelCfgWf_iff _ _).mp hcfg
  have hne : c.cfg.sm ++ payload ++ c.cfg.em ++ suffix ≠ [] := by
    apply List.ne_nil_of_length_pos
    simp only [List.length_append]
    omega
  generalize hframe : c.cfg.sm ++ payload ++ c.cfg.em ++ suffix = frame at hfit hne ⊢
  have hholds : (c.append frame).ended.Holds frame := (c.holds_append_of_empty frame hcur hbuf).ended
  have hvalid : (c.append frame).ended.validate = .good :=
    Channel.Holds.validate_frame (payload := payload) hcfg hsuffix
      (by rwa [Channel.ended_cfg, Channel.append_cfg, hframe])
  obtain ⟨t, u, e, ht, hlater⟩ :=
    hholds.tick_delivers now (configWf_setChannel (c.append frame).ended hw hc rfl) (getElem?_set_at hc) rfl hvalid
  refine ⟨t, u, e, ?_, hlater⟩
  rw [applyAll_push_eob _ hw hc hst hne (by omega), applyAll_cons_of_next _ ht]
  rfl

end Sys2Proof.Machine

/-! ### The PollScheduler (41_pollscheduler.md)

A `STICK` in the state its key names is what stands under its guard (R127 to R137). Which slave record a tick changes,
and how, is said once (`SlaveStep`), and gives the frame and the counter laws (R140); a tick emits at most one event,
but for the sending one (R142); a timeout leads through `Publishing` back to `Idle` (R132, R137). -/

namespace Sys2Proof.Machine

open Sys2Proof

/-! #### What picks a row and what it reads -/

theorem busDecode_err_ne_zero {p : Params} {addr start count : Nat} {rsp : List Byte} {code : Code}
    (h : busDecode p addr start count rsp = .err code) : code ≠ 0x00 := by
  unfold busDecode at h
  split at h
  · cases h
  · cases h
    generalize Config.busCode addr start count rsp = n
    have hlt : n % 255 < 255 := Nat.mod_lt _ (by decide)
    bv_omega

/-- The answer to the identity query is stored where there is one (R127). -/
theorem set_answer {slaves : List Slave} {u : Nat} {r : Slave} (id : IdRsp) (hr : slaves[u]? = some r) :
    slaves.set u (r.answer id) =
      if id.valid then slaves.set u { r with idVal := id.val, idValid := true, idFresh := true } else slaves := by
  unfold Slave.answer
  split
  · rfl
  · exact set_self hr

theorem Slave.answer_idFresh {r : Slave} (id : IdRsp) (h : r.idFresh = true) : (r.answer id).idFresh = true := by
  unfold Slave.answer
  split
  · rfl
  · exact h

/-- The least entry of a map in canonical form is the one at the least address that holds a value. -/
theorem ScratchMap.least_of_lookup {m : ScratchMap} {a v : Nat} (hwf : m.wf = true) (ha : m.lookup a = some v)
    (hleast : ∀ b, (m.lookup b).isSome = true → a ≤ b) : m.least = some (a, v) := by
  cases m with
  | nil => cases ha
  | cons x rest =>
    obtain ⟨k, w⟩ := x
    have hk : ScratchMap.lookup ((k, w) :: rest) k = some w := if_pos rfl
    have hak : a ≤ k := hleast k (by simp [hk])
    obtain ⟨hbelow, -⟩ := (cellsWf_cons _ _).mp hwf
    have hmem : a ∈ ((k, w) :: rest).map Prod.fst := (cellsGet_isSome _ a).mp (by
      rw [← ScratchMap.lookup, ha]
      rfl)
    obtain rfl : a = k := by
      obtain h | h := List.mem_cons.mp hmem
      · exact h
      · obtain ⟨y, hy, rfl⟩ := List.mem_map.mp h
        exact absurd (hbelow y hy) (Nat.not_lt.mpr hak)
    obtain rfl : w = v := Option.some.inj (hk.symm.trans ha)
    rfl

theorem ScratchMap.least_of_empty {m : ScratchMap} (h : ∀ b, m.lookup b = none) : m.least = none := by
  cases m with
  | nil => rfl
  | cons x rest => simpa [ScratchMap.lookup, cellsGet] using h x.1

/-! #### A row in the state its key names -/

section Rows

variable {s : State} {now : Nat} {id : IdRsp} {bus : BusRsp} {r : Slave}

theorem exec_stickIdleIdentity {u : Nat} (hw : configWf s.config = true) (hst : s.ps.state = .idle)
    (hu : s.leastUndiscovered = some (u, r)) :
    exec (.stickIdleIdentity now id bus) s =
      .next ((s.setSlave u (r.answer id)).emit [.requestIdentity r.cfg.addr]) := by
  simp only [exec, execStickIdleIdentity, onScheduler_of s _ _ _ hw hst rfl, hu]

theorem exec_stickIdleSelect_due {d : Nat} (hw : configWf s.config = true) (hst : s.ps.state = .idle)
    (hu : s.leastUndiscovered = none) (hd : s.leastDue now = some (d, r)) :
    exec (.stickIdleSelect now id bus) s = .next (s.startCycle d r now) := by
  refine (onScheduler_of s _ _ _ hw hst (by simp [hu])).trans ?_
  rw [hd]

theorem exec_stickIdleSelect_nobody (hw : configWf s.config = true) (hst : s.ps.state = .idle)
    (hu : s.leastUndiscovered = none) (hd : s.leastDue now = none) :
    exec (.stickIdleSelect now id bus) s = .next s := by
  refine (onScheduler_of s _ _ _ hw hst (by simp [hu])).trans ?_
  rw [hd]

theorem exec_stickTransmitting {b : Block} (hw : configWf s.config = true) (hst : s.ps.state = .transmitting)
    (hr : s.slaves[s.ps.curSlave]? = some r) (hb : r.cfg.blocks[s.ps.curBlock]? = some b) :
    exec (.stickTransmitting now id bus) s = .next
      (if reached s.params now s.ps.deadline then
        (s.setPs { s.ps.releaseLine with
            deadline := tadd s.params now s.params.tResponse, state := .awaitingResponse }).emit
          [.sendRequest r.cfg.addr b.start b.count, .disableTx]
      else s) := by
  simp only [exec, execStickTransmitting, onScheduler_of s _ _ _ hw hst rfl, withSlave_of s r _ hr,
    withBlock_of s r b _ hb]
  split <;> rfl

theorem exec_stickAwaitingComplete (hw : configWf s.config = true) (hst : s.ps.state = .awaitingResponse)
    (hc : bus.complete = true) :
    exec (.stickAwaitingComplete now id bus) s = .next (s.setPs { s.ps with rsp := bus.data, state := .decoding }) :=
  onScheduler_of s _ _ _ hw hst hc

theorem exec_stickAwaitingTimeout (hw : configWf s.config = true) (hst : s.ps.state = .awaitingResponse)
    (hc : bus.complete = false) (hd : reached s.params now s.ps.deadline = true)
    (hr : s.slaves[s.ps.curSlave]? = some r) :
    exec (.stickAwaitingTimeout now id bus) s =
      .next (s.pollError s.ps.curSlave r (timeoutCode s.params bus)) :=
  (onScheduler_of s _ _ _ hw hst (by simp [hc, hd])).trans (withSlave_of s r _ hr)

theorem exec_stickDecoding_ok {b : Block} {vs : List Nat} (hw : configWf s.config = true)
    (hst : s.ps.state = .decoding) (hr : s.slaves[s.ps.curSlave]? = some r)
    (hb : r.cfg.blocks[s.ps.curBlock]? = some b)
    (hd : busDecode s.params r.cfg.addr b.start b.count s.ps.rsp = .ok vs) :
    exec (.stickDecoding now id bus) s = .next (s.storeBlock r b vs) := by
  simp only [exec, execStickDecoding, onScheduler_of s _ _ _ hw hst rfl, withSlave_of s r _ hr,
    withBlock_of s r b _ hb, hd]

theorem exec_stickDecoding_err {b : Block} {code : Code} (hw : configWf s.config = true)
    (hst : s.ps.state = .decoding) (hr : s.slaves[s.ps.curSlave]? = some r)
    (hb : r.cfg.blocks[s.ps.curBlock]? = some b)
    (hd : busDecode s.params r.cfg.addr b.start b.count s.ps.rsp = .err code) :
    exec (.stickDecoding now id bus) s = .next (s.rejectBlock r code) := by
  simp only [exec, execStickDecoding, onScheduler_of s _ _ _ hw hst rfl, withSlave_of s r _ hr,
    withBlock_of s r b _ hb, hd]

theorem exec_stickPublishing_summary (hw : configWf s.config = true) (hst : s.ps.state = .publishing)
    (ht : s.ps.tainted = true) (hr : s.slaves[s.ps.curSlave]? = some r) :
    exec (.stickPublishing now id bus) s = .next
      ((s.setPs { s.ps with map := [], tainted := false }).emit
        [.publishError s.ps.curSlave r.lastErr r.errCnt r.succCnt]) := by
  simp only [exec, execStickPublishing, onScheduler_of s _ _ _ hw hst rfl, ht, if_true, withSlave_of s r _ hr]

theorem exec_stickPublishing_value {a v : Nat} (hw : configWf s.config = true) (hst : s.ps.state = .publishing)
    (ht : s.ps.tainted = false) (hm : s.ps.map.least = some (a, v)) :
    exec (.stickPublishing now id bus) s = .next
      ((s.setPs { s.ps with map := s.ps.map.remove a }).emit [.publish s.ps.curSlave a v]) := by
  simp only [exec, execStickPublishing, onScheduler_of s _ _ _ hw hst rfl, ht, Bool.false_eq_true, if_false, hm]

theorem exec_stickPublishing_identity (hw : configWf s.config = true) (hst : s.ps.state = .publishing)
    (ht : s.ps.tainted = false) (hm : s.ps.map.least = none) (hr : s.slaves[s.ps.curSlave]? = some r)
    (hf : r.idFresh = true) :
    exec (.stickPublishing now id bus) s = .next
      ((s.setSlave s.ps.curSlave r.identityPublished).emit [.publishIdentity s.ps.curSlave r.idVal]) := by
  simp only [exec, execStickPublishing, onScheduler_of s _ _ _ hw hst rfl, ht, Bool.false_eq_true, if_false, hm,
    withSlave_of s r _ hr, hf, if_true]

theorem exec_stickPublishing_finish (hw : configWf s.config = true) (hst : s.ps.state = .publishing)
    (ht : s.ps.tainted = false) (hm : s.ps.map.least = none) (hr : s.slaves[s.ps.curSlave]? = some r)
    (hf : r.idFresh = false) :
    exec (.stickPublishing now id bus) s = .next (s.setPs s.ps.destroyCycle) := by
  simp only [exec, execStickPublishing, onScheduler_of s _ _ _ hw hst rfl, ht, Bool.false_eq_true, if_false, hm,
    withSlave_of s r _ hr, hf]

theorem selectRow_stick (s : State) (now : Nat) (id : IdRsp) (bus : BusRsp) :
    selectRow s (.stick now id bus) = .ok (stickRow s now id bus s.ps.state) := rfl

theorem stickRow_awaiting_complete (hc : bus.complete = true) :
    stickRow s now id bus .awaitingResponse = .stickAwaitingComplete now id bus := if_pos hc

theorem stickRow_awaiting_timeout (hc : bus.complete = false) (hd : reached s.params now s.ps.deadline = true) :
    stickRow s now id bus .awaitingResponse = .stickAwaitingTimeout now id bus := by
  simp [stickRow, hc, hd]

end Rows

/-! #### `Idle`: one identity query, or the selection of a slave (R127, R128) -/

/-- Settles O32: the slave described is the one the scan finds. -/
theorem identityBranch : Obligations.IdentityBranch := by
  intro s now id bus u r hw hst hr hen hid hbelow
  have hu : s.leastUndiscovered = some (u, r) := (s.leastUndiscovered_eq_some u r).mpr
    ⟨hr, r.undiscovered_eq_true.mpr ⟨hen, hid⟩, fun j hj x hx => x.undiscovered_eq_false.mpr (hbelow j hj x hx)⟩
  rw [exec_stickIdleIdentity hw hst hu, ← set_answer id hr]
  rfl

/-- Settles O33: with nobody undiscovered, the scan for a due slave finds the one described, or none. -/
theorem selectionBranch : Obligations.SelectionBranch := by
  intro s now id bus hw hst hall
  have hu : s.leastUndiscovered = none :=
    s.leastUndiscovered_eq_none.mpr fun x hx => x.undiscovered_eq_false.mpr (hall x hx)
  refine ⟨fun d r hr hen hdue hbelow => ?_, fun hnobody => ?_⟩
  · refine exec_stickIdleSelect_due hw hst hu ((s.leastDue_eq_some now d r).mpr ⟨hr, ?_, fun j hj x hx => ?_⟩)
    · exact (r.due_eq_true s.params now).mpr ⟨hen, hdue⟩
    · exact (x.due_eq_false s.params now).mpr (hbelow j hj x hx)
  · exact exec_stickIdleSelect_nobody hw hst hu
      ((s.leastDue_eq_none now).mpr fun x hx => (x.due_eq_false s.params now).mpr (hnobody x hx))

/-! #### From the request to the next block (R129 to R136) -/

/-- Settles O34: the row stands under the scheduler's guard only. -/
theorem tickInPrepareTransmit : Obligations.TickInPrepareTransmit := by
  intro s now id bus hw hst
  exact onScheduler_of s _ _ _ hw hst rfl

/-- Settles O35: the slave and the block of the request exist. -/
theorem tickInTransmitting : Obligations.TickInTransmitting := by
  intro s now id bus r b hw hst hr hb
  exact exec_stickTransmitting hw hst hr hb

/-- Settles O36: neither the row nor its selection looks at the deadline. -/
theorem completeResponseIsLatched : Obligations.CompleteResponseIsLatched := by
  intro s now id bus hw hst hc
  refine ⟨exec_stickAwaitingComplete hw hst hc, ?_⟩
  rw [selectRow_stick, hst, stickRow_awaiting_complete hc]

/-- Settles O37: the row is the entry of a polling error with the code of the timeout. -/
theorem responseTimeout : Obligations.ResponseTimeout := by
  intro s now id bus r hw hst hc hd hr
  exact exec_stickAwaitingTimeout hw hst hc hd hr

/-- Settles O38: the row answers the state it finds, under its condition. -/
theorem waitingForTheResponse : Obligations.WaitingForTheResponse := by
  intro s now id bus hw hst hc hd
  exact onScheduler_of s _ _ _ hw hst (by simp [hc, hd])

/-- Settles O39: whichever `BusDecode` answers, the contract of R166 bounds it and the row stores or rejects. -/
theorem tickInDecoding : Obligations.TickInDecoding := by
  intro s now id bus r b hw hst hr hb
  split
  case h_1 vs hd =>
    obtain ⟨hlen, hvs⟩ := busDecode_ok _ _ _ _ _ _ hd
    refine ⟨hlen, hvs, s.ps.map.store b.start vs, fun a => ?_, exec_stickDecoding_ok hw hst hr hb hd⟩
    rw [ScratchMap.lookup_store, hlen]
  case h_2 code hd => exact ⟨busDecode_err_ne_zero hd, exec_stickDecoding_err hw hst hr hb hd⟩

/-- Settles O40: the row compares with the number of blocks of the polled slave. -/
theorem tickInAdvanceBlock : Obligations.TickInAdvanceBlock := by
  intro s now id bus r hw hst hr
  exact (onScheduler_of s _ _ _ hw hst rfl).trans (withSlave_of s r _ hr)

/-! #### `Publishing` (R137, R138) -/

/-- Settles O41: the four conditions decide the row, the map being read through its least entry. -/
theorem tickInPublishing : Obligations.TickInPublishing := by
  intro s now id bus r hw hst hr hwf
  refine ⟨fun ht => exec_stickPublishing_summary hw hst ht hr, fun ht a v ha hleast => ?_,
    fun ht hempty hf => exec_stickPublishing_identity hw hst ht (ScratchMap.least_of_empty hempty) hr hf,
    fun ht hempty hf => exec_stickPublishing_finish hw hst ht (ScratchMap.least_of_empty hempty) hr hf⟩
  exact ⟨s.ps.map.remove a, fun b => s.ps.map.lookup_remove a b hwf,
    exec_stickPublishing_value hw hst ht (ScratchMap.least_of_lookup hwf ha hleast)⟩

/-! #### What a tick does to the slave records (R125, R140) -/

/-- The ways a tick from `s` to `t` leaves slave record `j`: as it was, with the answer to the identity query, selected,
with a success or an error counted, or with its identity published. -/
inductive SlaveStep (s t : State) (now : Nat) (id : IdRsp) (j : Nat) (r : Slave) : Slave → Prop
  | kept : SlaveStep s t now id j r r
  | answered (hst : s.ps.state = .idle) (hu : s.leastUndiscovered = some (j, r)) :
      SlaveStep s t now id j r (r.answer id)
  | selected (hst : s.ps.state = .idle) (hu : s.leastUndiscovered = none) (hd : s.leastDue now = some (j, r)) :
      SlaveStep s t now id j r { r with lastPoll := now }
  | succeeded (hst : s.ps.state = .decoding) (hj : j = s.ps.curSlave) (hnext : t.ps.state = .advanceBlock) :
      SlaveStep s t now id j r (r.succeeded s.params)
  | failed (code : Code) (hst : s.ps.state = .awaitingResponse ∨ s.ps.state = .decoding) (hj : j = s.ps.curSlave)
      (hcode : code ≠ 0x00) (hnext : t.ps.state = .publishing) (htaint : t.ps.tainted = true) :
      SlaveStep s t now id j r (r.failed s.params code)
  | published (hst : s.ps.state = .publishing) (hj : j = s.ps.curSlave) :
      SlaveStep s t now id j r r.identityPublished

/-- Where one record is written, the others are kept. -/
theorem SlaveStep.of_set {s t : State} {now : Nat} {id : IdRsp} {i j : Nat} {b r a q : Slave}
    (hb : s.slaves[i]? = some b) (hr : s.slaves[j]? = some r) (hq : (s.slaves.set i a)[j]? = some q)
    (h : SlaveStep s t now id i b a) : SlaveStep s t now id j r q := by
  obtain ⟨rfl, rfl, rfl⟩ | ⟨-, rfl⟩ := getElem?_set_cases hb hr hq
  exacts [h, .kept]

theorem SchedulerStep.record {s t : State} {now : Nat} {id : IdRsp} {bus : BusRsp} {j : Nat} {r q : Slave}
    (h : SchedulerStep s now id bus t) (hr : s.slaves[j]? = some r) (hq : t.slaves[j]? = some q) :
    SlaveStep s t now id j r q := by
  cases h with
  | query u b hst hu => exact .of_set ((s.leastUndiscovered_eq_some u b).mp hu).1 hr hq (.answered hst hu)
  | start d b hst hu hd => exact .of_set ((s.leastDue_eq_some now d b).mp hd).1 hr hq (.selected hst hu hd)
  | timeout b hst hc hb => exact .of_set hb hr hq (.failed _ (.inl hst) rfl (timeoutCode_ne_zero _ _) rfl rfl)
  | decoded b _ vs hst hb => exact .of_set hb hr hq (.succeeded hst rfl rfl)
  | rejected b _ code hst hb _ hd =>
    exact .of_set hb hr hq (.failed _ (.inr hst) rfl (busDecode_err_ne_zero hd) rfl rfl)
  | identity b hst _ _ hb => exact .of_set hb hr hq (.published hst rfl)
  | rest | prepare | settle | send | latch | wait | nextBlock | lastBlock | summary | value | finish =>
    obtain rfl : r = q := Option.some.inj (hr.symm.trans hq)
    exact .kept

/-- A machine of the same configuration has as many slaves. -/
theorem State.slaves_length_of_config {s t : State} (h : t.config = s.config) :
    t.slaves.length = s.slaves.length := by
  simpa [State.config] using congrArg (fun g : Config => g.slaves.length) h

/-- A record that no way of `SlaveStep` changes is the same after the tick. -/
theorem SchedulerStep.record_unchanged {s t : State} {now : Nat} {id : IdRsp} {bus : BusRsp} {j : Nat}
    (h : SchedulerStep s now id bus t) (hj : ∀ r q, SlaveStep s t now id j r q → q = r) :
    t.slaves[j]? = s.slaves[j]? := by
  have hlen := State.slaves_length_of_config h.config
  by_cases hlt : j < s.slaves.length
  · have hr := List.getElem?_eq_getElem hlt
    have hq := List.getElem?_eq_getElem (hlen.symm ▸ hlt)
    rw [hr, hq, hj _ _ (h.record hr hq)]
  · rw [List.getElem?_eq_none (by omega), List.getElem?_eq_none (by omega)]

/-- Settles O43: of the ways a tick leaves a record, two count, and each counts one thing. -/
theorem counterLaws : Obligations.CounterLaws := by
  intro s t i now id bus hop h j r q hr hq
  obtain ⟨-, hstep⟩ := exec_stick_cases s t i now id bus hop h
  cases hstep.record hr hq with
  | kept | selected | published => exact .inl ⟨rfl, rfl, rfl⟩
  | answered => exact .inl ⟨r.answer_succCnt id, r.answer_errCnt id, r.answer_lastErr id⟩
  | succeeded hst hj hnext => exact .inr (.inl ⟨rfl, rfl, rfl, hst, hnext, hj⟩)
  | failed code hst hj hcode hnext htaint => exact .inr (.inr ⟨rfl, rfl, hcode, hst, hnext, htaint, hj⟩)

/-! #### What every tick leaves alone (R125, R139) -/

section SlaveStep

variable {s t : State} {now : Nat} {id : IdRsp} {j : Nat} {r q : Slave}

theorem SlaveStep.cfg_eq (h : SlaveStep s t now id j r q) : q.cfg = r.cfg := by
  cases h with
  | answered => exact r.answer_cfg id
  | kept | selected | succeeded | failed | published => rfl

/-- Only a slave without identity is queried (R127). -/
theorem SlaveStep.identity_kept (h : SlaveStep s t now id j r q) (hid : r.idValid = true) :
    q.idValid = true ∧ q.idVal = r.idVal := by
  cases h with
  | answered hst hu =>
    obtain ⟨-, hundisc, -⟩ := (s.leastUndiscovered_eq_some j r).mp hu
    obtain ⟨-, hno⟩ := r.undiscovered_eq_true.mp hundisc
    exact absurd hid (Bool.eq_false_iff.mp hno)
  | kept | selected | succeeded | failed | published => exact ⟨hid, rfl⟩

theorem SlaveStep.kept_in_cycle (h : SlaveStep s t now id j r q) (ha : s.ps.state ≠ .idle) :
    q.lastPoll = r.lastPoll ∧ q.idValid = r.idValid ∧ q.idVal = r.idVal := by
  cases h with
  | answered hst | selected hst => exact absurd hst ha
  | kept | succeeded | failed | published => exact ⟨rfl, rfl, rfl⟩

theorem SlaveStep.lastPoll_of_undiscovered (h : SlaveStep s t now id j r q) (hu : s.leastUndiscovered ≠ none) :
    q.lastPoll = r.lastPoll := by
  cases h with
  | answered => exact r.answer_lastPoll id
  | selected _ hnone => exact absurd hnone hu
  | kept | succeeded | failed | published => rfl

theorem SlaveStep.identity_of_all_discovered (h : SlaveStep s t now id j r q) (hst : s.ps.state = .idle)
    (hu : s.leastUndiscovered = none) : q.idValid = r.idValid ∧ q.idVal = r.idVal ∧ q.idFresh = r.idFresh := by
  cases h with
  | answered _ hsome => exact absurd hu (by simp [hsome])
  | published hpub => exact absurd hst (by simp [hpub])
  | kept | selected | succeeded | failed => exact ⟨rfl, rfl, rfl⟩

theorem SlaveStep.idFresh_in_cycle (h : SlaveStep s t now id j r q) (ha : s.ps.state ≠ .idle)
    (hp : s.ps.state ≠ .publishing) : q.idFresh = r.idFresh := by
  cases h with
  | answered hst | selected hst => exact absurd hst ha
  | published hst => exact absurd hst hp
  | kept | succeeded | failed => rfl

theorem SlaveStep.idFresh_kept (h : SlaveStep s t now id j r q) (hp : s.ps.state ≠ .publishing)
    (hf : r.idFresh = true) : q.idFresh = true := by
  cases h with
  | answered => exact Slave.answer_idFresh id hf
  | published hst => exact absurd hst hp
  | kept | selected | succeeded | failed => exact hf

/-- While a cycle is active only the polled record may change. -/
theorem SlaveStep.eq_of_not_polled (h : SlaveStep s t now id j r q) (ha : s.ps.state ≠ .idle)
    (hj : j ≠ s.ps.curSlave) : q = r := by
  cases h with
  | kept => rfl
  | answered hst | selected hst => exact absurd hst ha
  | succeeded _ hcur | failed _ _ hcur | published _ hcur => exact absurd hcur hj

/-- In `Idle` only the record the query or the selection finds may change. -/
theorem SlaveStep.eq_of_not_found (h : SlaveStep s t now id j r q) (hst : s.ps.state = .idle)
    (hquery : ∀ x, s.leastUndiscovered ≠ some (j, x))
    (hselect : s.leastUndiscovered = none → ∀ x, s.leastDue now ≠ some (j, x)) : q = r := by
  cases h with
  | kept => rfl
  | answered _ hu => exact absurd hu (hquery r)
  | selected _ hu hd => exact absurd hd (hselect hu r)
  | succeeded hdec => exact absurd hst (by simp [hdec])
  | failed _ hwait => exact absurd hwait (by simp [hst])
  | published hpub => exact absurd hst (by simp [hpub])

end SlaveStep

section Frame

variable {s t : State} {now : Nat} {id : IdRsp} {bus : BusRsp}

/-- In `Idle` the registers move only where a slave is selected (R128). -/
theorem SchedulerStep.ps_of_not_selected (h : SchedulerStep s now id bus t) (hst : s.ps.state = .idle)
    (hno : s.leastUndiscovered = none → s.leastDue now = none) : t.ps = s.ps := by
  cases h with
  | start _ _ _ hu hd => simp [hno hu] at hd
  | query | rest | settle | wait | identity => rfl
  | prepare h | send _ _ h | latch h | timeout _ h | decoded _ _ _ h | rejected _ _ _ h | nextBlock _ h
  | lastBlock _ h | summary _ h | value _ _ h | finish _ h => simp [hst] at h

/-- The line and the deadline move with the request only (R129, R130). -/
theorem SchedulerStep.line_kept (h : SchedulerStep s now id bus t) (hp : s.ps.state ≠ .prepareTransmit)
    (ht : s.ps.state ≠ .transmitting) : t.ps.txen = s.ps.txen ∧ t.ps.deadline = s.ps.deadline := by
  cases h with
  | prepare hst => exact absurd hst hp
  | send _ _ hst => exact absurd hst ht
  | query | rest | start | settle | latch | timeout | wait | decoded | rejected | nextBlock | lastBlock | summary
  | value | identity | finish => exact ⟨rfl, rfl⟩

theorem SchedulerStep.curSlave_kept (h : SchedulerStep s now id bus t) (hi : s.ps.state ≠ .idle)
    (hp : s.ps.state ≠ .publishing) : t.ps.curSlave = s.ps.curSlave := by
  cases h with
  | start _ _ hst => exact absurd hst hi
  | finish _ hst => exact absurd hst hp
  | query | rest | prepare | settle | send | latch | timeout | wait | decoded | rejected | nextBlock | lastBlock
  | summary | value | identity => rfl

theorem SchedulerStep.curBlock_kept (h : SchedulerStep s now id bus t) (hi : s.ps.state ≠ .idle)
    (ha : s.ps.state ≠ .advanceBlock) (hp : s.ps.state ≠ .publishing) : t.ps.curBlock = s.ps.curBlock := by
  cases h with
  | start _ _ hst => exact absurd hst hi
  | nextBlock _ hst => exact absurd hst ha
  | finish _ hst => exact absurd hst hp
  | query | rest | prepare | settle | send | latch | timeout | wait | decoded | rejected | lastBlock | summary | value
  | identity => rfl

theorem SchedulerStep.tainted_kept (h : SchedulerStep s now id bus t) (hi : s.ps.state ≠ .idle)
    (hw : s.ps.state ≠ .awaitingResponse) (hd : s.ps.state ≠ .decoding) (hp : s.ps.state ≠ .publishing) :
    t.ps.tainted = s.ps.tainted := by
  cases h with
  | start _ _ hst => exact absurd hst hi
  | timeout _ hst => exact absurd hst hw
  | rejected _ _ _ hst => exact absurd hst hd
  | summary _ hst | finish _ hst => exact absurd hst hp
  | query | rest | prepare | settle | send | latch | wait | decoded | nextBlock | lastBlock | value | identity => rfl

theorem SchedulerStep.rsp_kept (h : SchedulerStep s now id bus t) (hw : s.ps.state ≠ .awaitingResponse)
    (hd : s.ps.state ≠ .decoding) (hp : s.ps.state ≠ .publishing) : t.ps.rsp = s.ps.rsp := by
  cases h with
  | latch hst => exact absurd hst hw
  | decoded _ _ _ hst | rejected _ _ _ hst => exact absurd hst hd
  | finish _ hst => exact absurd hst hp
  | query | rest | start | prepare | settle | send | timeout | wait | nextBlock | lastBlock | summary | value
  | identity => rfl

theorem SchedulerStep.map_kept (h : SchedulerStep s now id bus t) (hd : s.ps.state ≠ .decoding)
    (hp : s.ps.state ≠ .publishing) : t.ps.map = s.ps.map := by
  cases h with
  | decoded _ _ _ hst => exact absurd hst hd
  | summary _ hst | value _ _ hst => exact absurd hst hp
  | query | rest | start | prepare | settle | send | latch | timeout | wait | rejected | nextBlock | lastBlock
  | identity | finish => rfl

/-- A block is stored at its own addresses (R135): as many values as it has (R166). -/
theorem SchedulerStep.lookup_of_decoding (h : SchedulerStep s now id bus t) (hst : s.ps.state = .decoding) {r : Slave}
    {b : Block} (hr : s.slaves[s.ps.curSlave]? = some r) (hb : r.cfg.blocks[s.ps.curBlock]? = some b) {a : Nat}
    (ha : ¬(b.start ≤ a ∧ a < b.start + b.count)) : t.ps.map.lookup a = s.ps.map.lookup a := by
  cases h with
  | decoded r' b' vs _ hr' hb' hd =>
    obtain rfl : r = r' := Option.some.inj (hr.symm.trans hr')
    obtain rfl : b = b' := Option.some.inj (hb.symm.trans hb')
    obtain ⟨hlen, -⟩ := busDecode_ok _ _ _ _ _ _ hd
    rw [State.storeBlock_ps, ScratchMap.lookup_store, hlen, if_neg ha]
  | summary _ h | value _ _ h => simp [hst] at h
  | query | rest | start | prepare | settle | send | latch | timeout | wait | rejected | nextBlock | lastBlock
  | identity | finish => rfl

theorem SchedulerStep.lookup_of_tainted (h : SchedulerStep s now id bus t) (hst : s.ps.state = .publishing)
    (ht : s.ps.tainted = true) (a : Nat) : t.ps.map.lookup a = none := by
  cases h with
  | summary => rfl
  | value _ _ _ hf | identity _ _ hf | finish _ _ hf => simp [ht] at hf
  | query _ _ h | rest h | start _ _ h | prepare h | settle h | send _ _ h | latch h | timeout _ h | wait h
  | decoded _ _ _ h | rejected _ _ _ h | nextBlock _ h | lastBlock _ h => simp [hst] at h

theorem SchedulerStep.lookup_of_not_least (h : SchedulerStep s now id bus t) (hst : s.ps.state = .publishing)
    (ht : s.ps.tainted = false) {a : Nat} (ha : ∀ v, s.ps.map.least ≠ some (a, v)) :
    t.ps.map.lookup a = s.ps.map.lookup a := by
  cases h with
  | summary _ _ hf => simp [ht] at hf
  | value a' v _ _ hm => exact s.ps.map.lookup_remove_of_ne a' a fun haa => ha v (haa ▸ hm)
  | decoded _ _ _ h => simp [hst] at h
  | query | rest | start | prepare | settle | send | latch | timeout | wait | rejected | nextBlock | lastBlock
  | identity | finish => rfl

end Frame

/-- Settles O42: a tick touches the scheduler's unit only, each record in one of the ways of `SlaveStep`, and each of
the scheduler's registers in the states whose rules write it. -/
theorem schedulerRowsFrame : Obligations.SchedulerRowsFrame := by
  intro s t i now id bus hop h
  obtain ⟨-, hstep⟩ := exec_stick_cases s t i now id bus hop h
  have hoff := hstep.sameOff
  have hchannels : t.channels = s.channels :=
    List.ext_getElem? fun k => (hoff.sameAt (.channel k) nofun).symm
  refine ⟨⟨congrArg Config.params hoff.config, hchannels, hoff.inbox, hoff.resets,
    State.slaves_length_of_config hoff.config⟩, ?polled, ?queried, ?selected, ?nobody, ?fields, hstep.line_kept,
    hstep.curSlave_kept, hstep.curBlock_kept, hstep.tainted_kept, hstep.rsp_kept, hstep.map_kept,
    fun hst r b hr hb a ha => hstep.lookup_of_decoding hst hr hb ha, hstep.lookup_of_tainted,
    fun hst ht a ha => hstep.lookup_of_not_least hst ht ha⟩
  case polled =>
    intro ha j hj
    exact hstep.record_unchanged fun r q hrec => hrec.eq_of_not_polled ha hj
  case queried =>
    intro hst u r hu
    refine ⟨hstep.ps_of_not_selected hst (by simp [hu]), fun j hj => hstep.record_unchanged fun r' q hrec => ?_⟩
    exact hrec.eq_of_not_found hst (by simp [hu, Ne.symm hj]) (by simp [hu])
  case selected =>
    intro hst hu d r hd j hj
    refine hstep.record_unchanged fun r' q hrec => ?_
    exact hrec.eq_of_not_found hst (by simp [hu]) (by simp [hd, Ne.symm hj])
  case nobody =>
    intro hst hu hd
    refine ⟨List.ext_getElem? fun j => hstep.record_unchanged fun r q hrec => ?_, ?_⟩
    · exact hrec.eq_of_not_found hst (by simp [hu]) (by simp [hd])
    · exact hstep.ps_of_not_selected hst fun _ => hd
  case fields =>
    intro j r q hr hq
    have hrec := hstep.record hr hq
    exact ⟨hrec.cfg_eq, hrec.identity_kept, hrec.kept_in_cycle, fun _ => hrec.lastPoll_of_undiscovered,
      hrec.identity_of_all_discovered, hrec.idFresh_in_cycle, hrec.idFresh_kept⟩

/-! #### At most one side effect a tick (R142) -/

/-- The events a tick appends: one at most, or the request with the release of the line. -/
theorem SchedulerStep.events {s t : State} {now : Nat} {id : IdRsp} {bus : BusRsp}
    (h : SchedulerStep s now id bus t) :
    ∃ es, t.out = s.out ++ es ∧
      (es.length ≤ 1 ∨ s.ps.state = .transmitting ∧ ∃ a b n, es = [.sendRequest a b n, .disableTx]) := by
  cases h with
  | send _ _ hst => exact ⟨_, rfl, .inr ⟨hst, _, _, _, rfl⟩⟩
  | query | prepare | summary | value | identity => exact ⟨[_], rfl, .inl (Nat.le_refl _)⟩
  | rest | start | settle | latch | timeout | wait | decoded | rejected | nextBlock | lastBlock | finish =>
    exact ⟨[], (List.append_nil _).symm, .inl (Nat.zero_le _)⟩

/-- Settles O44: the two events of the sending tick are no publish events. -/
theorem oneSideEffectPerTick : Obligations.OneSideEffectPerTick := by
  intro s t i now id bus hop h
  obtain ⟨-, hstep⟩ := exec_stick_cases s t i now id bus hop h
  obtain ⟨es, hout, hone | ⟨hst, a, b, n, rfl⟩⟩ := hstep.events
  · exact ⟨es, hout, (List.length_filter_le _ _).trans hone, fun htwo => absurd (htwo.trans hone) (by decide)⟩
  · exact ⟨_, hout, Nat.zero_le _, fun _ => ⟨hst, a, b, n, rfl⟩⟩

/-! #### From a timeout back to `Idle` (R132, R137; 95_test_vectors.md S6) -/

section Drain

variable {s : State} {op : Op} {r : Slave}

/-- In `Publishing` a tick runs the same row whatever its operands. -/
theorem applyOp_publishing (hop : op.unit = .scheduler) (hst : s.ps.state = .publishing) :
    ∃ n i b, applyOp s op = exec (.stickPublishing n i b) s := by
  obtain ⟨n, i, b, rfl⟩ := Op.unit_eq_scheduler hop
  refine ⟨n, i, b, ?_⟩
  rw [applyOp_of_row s _ _ (selectRow_stick s n i b), hst]
  rfl

theorem applyOp_publishing_finish (hop : op.unit = .scheduler) (hw : configWf s.config = true)
    (hst : s.ps.state = .publishing) (ht : s.ps.tainted = false) (hm : s.ps.map.least = none)
    (hr : s.slaves[s.ps.curSlave]? = some r) (hf : r.idFresh = false) :
    applyOp s op = .next (s.setPs s.ps.destroyCycle) := by
  obtain ⟨n, i, b, hx⟩ := applyOp_publishing hop hst
  rw [hx, exec_stickPublishing_finish hw hst ht hm hr hf]

theorem applyOp_timeout {now : Nat} {id : IdRsp} {bus : BusRsp} (hw : configWf s.config = true)
    (hst : s.ps.state = .awaitingResponse) (hc : bus.complete = false)
    (hd : reached s.params now s.ps.deadline = true) (hr : s.slaves[s.ps.curSlave]? = some r) :
    applyOp s (.stick now id bus) = .next (s.pollError s.ps.curSlave r (timeoutCode s.params bus)) := by
  rw [applyOp_of_row s _ _ (selectRow_stick s now id bus), hst, stickRow_awaiting_timeout hc hd]
  exact exec_stickAwaitingTimeout hw hst hc hd hr

theorem configWf_setSlave {i : Nat} (q : Slave) (hw : configWf s.config = true) (hr : s.slaves[i]? = some r)
    (hq : q.cfg = r.cfg) : configWf (s.setSlave i q).config = true := by
  rw [s.setSlave_config i r q hr hq, hw]

theorem Slave.identityPublished_of_not_fresh (hf : r.idFresh = false) : r.identityPublished = r := by
  rw [Slave.identityPublished, ← hf]

/-- With an empty map and no error to report, at most two ticks publish the identity where it is fresh and end the
cycle. -/
theorem publishing_empty_drains {op₁ op₂ : Op} (h₁ : op₁.unit = .scheduler) (h₂ : op₂.unit = .scheduler)
    (hw : configWf s.config = true) (hst : s.ps.state = .publishing) (ht : s.ps.tainted = false)
    (hm : s.ps.map.least = none) (hr : s.slaves[s.ps.curSlave]? = some r) :
    ∃ k u, k ≤ 2 ∧ applyAll s ([op₁, op₂].take k) = .next u ∧ u.ps.state = .idle ∧
      u.slaves[s.ps.curSlave]? = some r.identityPublished := by
  cases hf : r.idFresh with
  | false =>
    have honly := applyOp_publishing_finish h₁ hw hst ht hm hr hf
    refine ⟨1, s.setPs s.ps.destroyCycle, by decide, applyAll_cons_of_next [] honly, rfl, ?_⟩
    rwa [Slave.identityPublished_of_not_fresh hf]
  | true =>
    obtain ⟨n, i, b, hfirst⟩ := applyOp_publishing h₁ hst
    rw [exec_stickPublishing_identity hw hst ht hm hr hf] at hfirst
    have hsecond := applyOp_publishing_finish
      (s := (s.setSlave s.ps.curSlave r.identityPublished).emit [.publishIdentity s.ps.curSlave r.idVal])
      h₂ (configWf_setSlave r.identityPublished hw hr rfl) hst ht hm (getElem?_set_at hr) rfl
    have hrun := (applyAll_cons_of_next [op₂] hfirst).trans (applyAll_cons_of_next [] hsecond)
    exact ⟨2, _, Nat.le_refl _, hrun, rfl, getElem?_set_at hr⟩

/-- A tainted cycle reports its error, with which the map is emptied, and drains. -/
theorem publishing_tainted_drains {op₁ op₂ op₃ : Op} (h₁ : op₁.unit = .scheduler)
    (h₂ : op₂.unit = .scheduler) (h₃ : op₃.unit = .scheduler) (hw : configWf s.config = true)
    (hst : s.ps.state = .publishing) (ht : s.ps.tainted = true) (hr : s.slaves[s.ps.curSlave]? = some r) :
    ∃ k u, k ≤ 3 ∧ applyAll s ([op₁, op₂, op₃].take k) = .next u ∧ u.ps.state = .idle ∧
      u.slaves[s.ps.curSlave]? = some r.identityPublished := by
  obtain ⟨n, i, b, hfirst⟩ := applyOp_publishing h₁ hst
  rw [exec_stickPublishing_summary hw hst ht hr] at hfirst
  obtain ⟨k, u, hk, hrest, hidle, hq⟩ := publishing_empty_drains
    (s := (s.setPs { s.ps with map := [], tainted := false }).emit
      [.publishError s.ps.curSlave r.lastErr r.errCnt r.succCnt]) h₂ h₃ hw hst rfl rfl hr
  exact ⟨k + 1, u, Nat.succ_le_succ hk, (applyAll_cons_of_next _ hfirst).trans hrest, hidle, hq⟩

end Drain

/-- Settles O45: the timeout taints the cycle and counts one error (R132, R181), and a tainted cycle drains. -/
theorem timeoutReturnsToIdle : Obligations.TimeoutReturnsToIdle := by
  intro s r now id bus later hs hst hr hc hd hlen hticks
  obtain ⟨op₁, op₂, op₃, rfl⟩ := List.length_eq_three.mp hlen
  have hunit : ∀ op ∈ [op₁, op₂, op₃], op.unit = .scheduler := by
    intro op hop
    obtain ⟨n, i, b, rfl⟩ := hticks op hop
    rfl
  have hw' : configWf (s.pollError s.ps.curSlave r (timeoutCode s.params bus)).config = true :=
    configWf_setSlave (r.failed s.params _) hs.wf hr rfl
  obtain ⟨k, u, hk, hrun, hidle, hq⟩ := publishing_tainted_drains (hunit op₁ (by simp)) (hunit op₂ (by simp))
    (hunit op₃ (by simp)) hw' rfl rfl (getElem?_set_at hr)
  exact ⟨_, k, u, applyOp_timeout hs.wf hst hc hd hr, hk, hrun, hidle, _, hq, rfl, rfl, fun hfew => if_pos hfew⟩

end Sys2Proof.Machine

/-! ### The Tick Driver (42_tick_driver.md)

The run of a list of presented operations is the application of that list (`run_present`), because no operation reads
what is waiting. A list of legal operations completes from every state with the invariant (60_exceptions.md R189),
and an iteration is such a list (R150, R152). -/

namespace Sys2Proof.Machine

open Sys2Proof

/-! #### No operation reads what is waiting -/

/-- The answer with other inputs waiting. -/
def Result.withInbox (q : List Input) : Result → Result
  | .next t => .next { t with inbox := q }
  | .fault f => .fault f
  | .refused r => .refused r

section Inbox

variable {s : State} {q : List Input}

theorem ready_inbox (k : Result) : ready { s with inbox := q } (k.withInbox q) = (ready s k).withInbox q := by
  rw [ready, ready]
  exact (apply_ite (Result.withInbox q) (configWf s.config = true) k (.refused .illFormedConfig)).symm

theorem onChannel_inbox {ch : ChField} {st : ChState} {k k' : Channel → Result}
    (h : ∀ c, k' c = (k c).withInbox q) :
    onChannel { s with inbox := q } ch st k' = Result.withInbox q (onChannel s ch st k) := by
  rw [onChannel, onChannel, ← ready_inbox]
  congr 1
  cases s.channels[ch.toNat]? with
  | none => rfl
  | some c =>
    simp only [h c]
    split <;> rfl

theorem onScheduler_inbox {st : PsState} {cond : Bool} {k k' : Result} (h : k' = k.withInbox q) :
    onScheduler { s with inbox := q } st cond k' = Result.withInbox q (onScheduler s st cond k) := by
  rw [onScheduler, onScheduler, ← ready_inbox, h]
  congr 1
  repeat' split
  all_goals rfl

theorem withSlave_inbox {k k' : Slave → Result} (h : ∀ r, k' r = (k r).withInbox q) :
    withSlave { s with inbox := q } k' = Result.withInbox q (withSlave s k) := by
  unfold withSlave
  cases s.slaves[s.ps.curSlave]? with
  | none => rfl
  | some r => exact h r

theorem withBlock_inbox {r : Slave} {k k' : Block → Result} (h : ∀ b, k' b = (k b).withInbox q) :
    withBlock { s with inbox := q } r k' = Result.withInbox q (withBlock s r k) := by
  unfold withBlock
  cases r.cfg.blocks[s.ps.curBlock]? with
  | none => rfl
  | some b => exact h b

theorem State.acceptBurst_inbox (i : Nat) (c : Channel) (data : List Byte) :
    State.acceptBurst { s with inbox := q } i c data = { s.acceptBurst i c data with inbox := q } := by
  unfold State.acceptBurst
  repeat' split
  all_goals rfl

theorem State.deliver_inbox (i : Nat) (c : Channel) (now : Nat) :
    State.deliver { s with inbox := q } i c now = Result.withInbox q (s.deliver i c now) := by
  unfold State.deliver
  split <;> rfl

theorem State.leastUndiscovered_inbox : State.leastUndiscovered { s with inbox := q } = s.leastUndiscovered := rfl

theorem State.leastDue_inbox (now : Nat) : State.leastDue { s with inbox := q } now = s.leastDue now := rfl

/-- The rows of the operations, row by row: what is waiting passes through. -/
theorem exec_inbox {i : Instr} {op : Op} (hop : i.toOp = some op) :
    exec i { s with inbox := q } = Result.withInbox q (exec i s) := by
  cases i
  case reset | loop | frame => cases hop
  case reserved0101 | reserved011x | reserved1xxx => rfl
  case nop => exact ready_inbox (.next s)
  case pushIdle ch data | pushCollecting ch data =>
    exact onChannel_inbox fun c => congrArg _ (State.acceptBurst_inbox ch.toNat c data)
  case ctickValidating ch now =>
    refine onChannel_inbox fun c => ?_
    cases c.validate with
    | undefinedWindow | bad err => rfl
    | good => exact State.deliver_inbox _ _ now
  case ctickDelivering ch now => exact onChannel_inbox fun c => State.deliver_inbox _ c now
  case ctickThrottled ch now =>
    refine onChannel_inbox fun c => congrArg _ ?_
    split <;> rfl
  case stickIdleIdentity now id bus =>
    refine onScheduler_inbox ?_
    rw [State.leastUndiscovered_inbox]
    cases s.leastUndiscovered <;> rfl
  case stickIdleSelect now id bus =>
    refine onScheduler_inbox ?_
    rw [State.leastDue_inbox]
    cases s.leastDue now <;> rfl
  case stickPrepareTransmit | stickAwaitingComplete | stickAwaitingWait => exact onScheduler_inbox rfl
  case stickTransmitting now id bus =>
    refine onScheduler_inbox ?_
    split
    · exact withSlave_inbox fun r => withBlock_inbox fun b => rfl
    · rfl
  case stickAwaitingTimeout => exact onScheduler_inbox (withSlave_inbox fun r => rfl)
  case stickDecoding now id bus =>
    refine onScheduler_inbox (withSlave_inbox fun r => withBlock_inbox fun b => ?_)
    cases busDecode s.params r.cfg.addr b.start b.count s.ps.rsp <;> rfl
  case stickAdvanceBlock => exact onScheduler_inbox (withSlave_inbox fun r => rfl)
  case stickPublishing now id bus =>
    refine onScheduler_inbox ?_
    split
    · exact withSlave_inbox fun r => rfl
    · cases s.ps.map.least with
      | some x => rfl
      | none =>
        refine withSlave_inbox fun r => ?_
        split <;> rfl
  all_goals exact onChannel_inbox fun _ => rfl

theorem applyOp_inbox (op : Op) : applyOp { s with inbox := q } op = Result.withInbox q (applyOp s op) := by
  rw [applyOp, selectRow_inbox, applyOp]
  cases hrow : selectRow s op with
  | error r => rfl
  | ok i => exact exec_inbox (selectRow_toOp s op i hrow)

end Inbox

/-! #### Running presented operations (log 7) -/

theorem run_succ_of_next {s t : State} (n : Nat) (h : step s = .next t) :
    Host.Core.run Sys2Proof.core (n + 1) s = Host.Core.run Sys2Proof.core n t := by
  simp only [Host.Core.run, Sys2Proof.core, h]

theorem run_succ_of_fault {s : State} {f : Fault} (n : Nat) (h : step s = .fault f) :
    Host.Core.run Sys2Proof.core (n + 1) s = .fault f := by
  simp only [Host.Core.run, Sys2Proof.core, h]

theorem run_succ_of_refused {s : State} {r : Refusal} (n : Nat) (h : step s = .refused r) :
    Host.Core.run Sys2Proof.core (n + 1) s = .refused r := by
  simp only [Host.Core.run, Sys2Proof.core, h]

/-- The bits of operations, each an input of its own. -/
def presented (p : Params) (ops : List Op) : List Input := ops.map fun op => .bits (encodeOp p op)

/-- The first of the presented operations is applied, and the others wait. -/
theorem step_present {s : State} (op : Op) (ops : List Op) (hwf : op.wf s.params = true) :
    step (s.present (presented s.params (op :: ops))) =
      Result.withInbox (presented s.params ops ++ s.inbox) (applyOp s op) := by
  rw [← applyOp_inbox]
  exact stepAppliesThePresentedOperation (s.present (presented s.params (op :: ops))) op [] _ hwf
    (congrArg (fun bs => Input.bits bs :: (presented s.params ops ++ s.inbox)) (encodeOp s.params op).append_nil.symm)

/-- An operation leaves the widths, the number of channels and what is waiting. -/
theorem applyOp_keeps {s t : State} {op : Op} (h : applyOp s op = .next t) :
    t.params = s.params ∧ t.channels.length = s.channels.length ∧ t.inbox = s.inbox := by
  obtain ⟨-, hoff⟩ := applyOp_sameOff h
  exact ⟨congrArg Config.params hoff.config, State.channels_length_of_config hoff.config, hoff.inbox⟩

/-- As many steps as operations are presented answer what the operations answer, applied in order. -/
theorem run_present (s : State) (ops : List Op) (hwf : ∀ op ∈ ops, op.wf s.params = true) :
    Host.Core.run Sys2Proof.core ops.length (s.present (presented s.params ops)) = applyAll s ops := by
  induction ops generalizing s with
  | nil => rfl
  | cons op ops ih =>
    obtain ⟨hop, hops⟩ := List.forall_mem_cons.mp hwf
    have hstep := step_present op ops hop
    rw [List.length_cons, applyAll]
    cases hx : applyOp s op with
    | fault f => exact run_succ_of_fault _ (by rw [hstep, hx]; rfl)
    | refused r => exact run_succ_of_refused _ (by rw [hstep, hx]; rfl)
    | next t =>
      obtain ⟨hparams, -, hinbox⟩ := applyOp_keeps hx
      rw [hx, ← hinbox, ← hparams] at hstep
      rw [← hparams] at hops ⊢
      exact (run_succ_of_next _ hstep).trans (ih t hops)

/-! #### Legal operations complete (60_exceptions.md R189) -/

section ChannelOperations

variable {s : State} {ch : ChField} {c : Channel}

theorem State.Inv.push_completes (hs : s.Inv) (hc : s.channels[ch.toNat]? = some c) (data : List Byte) :
    ∃ t, applyOp s (.push ch data) = .next t := by
  rw [applyOp_of_row s _ _ (selectRow_push s ch data c hc)]
  cases hst : c.state <;> exact ⟨_, onChannel_of_state _ hs.wf hc hst⟩

theorem State.Inv.eob_completes (hs : s.Inv) (hc : s.channels[ch.toNat]? = some c) :
    ∃ t, applyOp s (.eob ch) = .next t := by
  rw [applyOp_of_row s _ _ (selectRow_eob s ch c hc)]
  cases hst : c.state <;> exact ⟨_, onChannel_of_state _ hs.wf hc hst⟩

/-- In `Validating` the buffer is full below the cursor, so it is delivered or reported (R113); `Delivering` is no state
between operations (10_state.md R30). -/
theorem State.Inv.ctick_completes (hs : s.Inv) (hc : s.channels[ch.toNat]? = some c) (now : Nat) :
    ∃ t, applyOp s (.ctick ch now) = .next t := by
  obtain ⟨-, -, -, -, hdelivering, hfull, -⟩ := hs.channel hc
  rw [applyOp_of_row s _ _ (selectRow_ctick s ch now c hc)]
  cases hst : c.state with
  | idle | collecting | throttled => exact ⟨_, onChannel_of_state _ hs.wf hc hst⟩
  | delivering => exact absurd hst hdelivering
  | validating =>
    obtain ⟨hbad, hgood, ⟨err, hv⟩ | hv⟩ := tickInValidating s ch now c hs.wf hc hst hfull
    · exact ⟨_, hbad err hv⟩
    · obtain ⟨bytes, -, -, hx⟩ := hgood hv
      exact ⟨_, hx⟩

end ChannelOperations

/-- The slave and the block of an active cycle exist (R48 (b)). -/
theorem State.Inv.polled_block {s : State} (hs : s.Inv) (ha : s.ps.state ≠ .idle) :
    ∃ r b, s.slaves[s.ps.curSlave]? = some r ∧ r.cfg.blocks[s.ps.curBlock]? = some b := by
  obtain ⟨-, -, -, -, hcyc⟩ := hs
  obtain ⟨r, hr, -, -, hblk, -⟩ := hcyc ha
  exact ⟨r, _, hr, List.getElem?_eq_getElem hblk⟩

section Stick

variable {s : State} (now : Nat) (id : IdRsp) (bus : BusRsp)

theorem stickIdle_completes (hw : configWf s.config = true) (hst : s.ps.state = .idle) :
    ∃ t, exec (stickRow s now id bus .idle) s = .next t := by
  unfold stickRow
  cases hu : s.leastUndiscovered with
  | some x => exact ⟨_, exec_stickIdleIdentity hw hst hu⟩
  | none =>
    cases hd : s.leastDue now with
    | some x => exact ⟨_, exec_stickIdleSelect_due hw hst hu hd⟩
    | none => exact ⟨_, exec_stickIdleSelect_nobody hw hst hu hd⟩

theorem stickAwaiting_completes {r : Slave} (hw : configWf s.config = true) (hst : s.ps.state = .awaitingResponse)
    (hr : s.slaves[s.ps.curSlave]? = some r) : ∃ t, exec (stickRow s now id bus .awaitingResponse) s = .next t := by
  cases hc : bus.complete with
  | true =>
    rw [stickRow_awaiting_complete hc]
    exact ⟨_, exec_stickAwaitingComplete hw hst hc⟩
  | false =>
    cases hd : reached s.params now s.ps.deadline with
    | true =>
      rw [stickRow_awaiting_timeout hc hd]
      exact ⟨_, exec_stickAwaitingTimeout hw hst hc hd hr⟩
    | false =>
      have hrow : stickRow s now id bus .awaitingResponse = .stickAwaitingWait now id bus := by simp [stickRow, hc, hd]
      rw [hrow]
      exact ⟨_, waitingForTheResponse s now id bus hw hst hc hd⟩

theorem stickDecoding_completes {r : Slave} {b : Block} (hw : configWf s.config = true) (hst : s.ps.state = .decoding)
    (hr : s.slaves[s.ps.curSlave]? = some r) (hb : r.cfg.blocks[s.ps.curBlock]? = some b) :
    ∃ t, exec (.stickDecoding now id bus) s = .next t := by
  cases hd : busDecode s.params r.cfg.addr b.start b.count s.ps.rsp with
  | ok vs => exact ⟨_, exec_stickDecoding_ok hw hst hr hb hd⟩
  | err code => exact ⟨_, exec_stickDecoding_err hw hst hr hb hd⟩

theorem stickPublishing_completes {r : Slave} (hw : configWf s.config = true) (hst : s.ps.state = .publishing)
    (hr : s.slaves[s.ps.curSlave]? = some r) : ∃ t, exec (.stickPublishing now id bus) s = .next t := by
  cases ht : s.ps.tainted with
  | true => exact ⟨_, exec_stickPublishing_summary hw hst ht hr⟩
  | false =>
    cases hm : s.ps.map.least with
    | some x => exact ⟨_, exec_stickPublishing_value hw hst ht hm⟩
    | none =>
      cases hf : r.idFresh with
      | true => exact ⟨_, exec_stickPublishing_identity hw hst ht hm hr hf⟩
      | false => exact ⟨_, exec_stickPublishing_finish hw hst ht hm hr hf⟩

/-- In each of the seven states the slave and the block a tick needs exist, so it completes (R152). -/
theorem State.Inv.stick_completes (hs : s.Inv) : ∃ t, applyOp s (.stick now id bus) = .next t := by
  rw [applyOp_of_row s _ _ (selectRow_stick s now id bus)]
  by_cases ha : s.ps.state = .idle
  · rw [ha]
    exact stickIdle_completes now id bus hs.wf ha
  obtain ⟨r, b, hr, hb⟩ := hs.polled_block ha
  cases hst : s.ps.state with
  | idle => exact absurd hst ha
  | prepareTransmit => exact ⟨_, tickInPrepareTransmit s now id bus hs.wf hst⟩
  | transmitting => exact ⟨_, exec_stickTransmitting hs.wf hst hr hb⟩
  | awaitingResponse => exact stickAwaiting_completes now id bus hs.wf hst hr
  | decoding => exact stickDecoding_completes now id bus hs.wf hst hr hb
  | advanceBlock => exact ⟨_, tickInAdvanceBlock s now id bus r hs.wf hst hr⟩
  | publishing => exact stickPublishing_completes now id bus hs.wf hst hr

end Stick

theorem State.Inv.applyOp_completes {s : State} {op : Op} (hs : s.Inv) (hop : op.legal s) :
    ∃ t, applyOp s op = .next t := by
  cases op with
  | nop ch => exact ⟨s, nopChangesNothing s ch hs.wf⟩
  | push ch data => exact hs.push_completes (List.getElem?_eq_getElem hop) data
  | eob ch => exact hs.eob_completes (List.getElem?_eq_getElem hop)
  | ctick ch now => exact hs.ctick_completes (List.getElem?_eq_getElem hop) now
  | stick now id bus => exact hs.stick_completes now id bus
  | reserved0101 | reserved011x | reserved1xxx => exact hop.elim

theorem applyOp_keeps_inv {s t : State} {op : Op} (hs : s.Inv) (hwf : op.wf s.params = true)
    (h : applyOp s op = .next t) : t.Inv := by
  obtain ⟨i, hrow, hx⟩ := (applyOp_eq_next s t op).mp h
  exact exec_keeps_inv s t i hs ((Instr.wf_of_toOp _ (selectRow_toOp s op i hrow)).trans hwf) hx

theorem Op.legal_of_length {s t : State} {op : Op} (hlen : t.channels.length = s.channels.length) (h : op.legal s) :
    op.legal t := by
  cases op
  case push | eob | ctick => exact h.trans_eq hlen.symm
  all_goals exact h

/-- Legal operations with operands that fit complete one after the other: each leaves the invariant and as many channels
as it finds. -/
theorem State.Inv.applyAll_completes {s : State} (hs : s.Inv) (ops : List Op)
    (hops : ∀ op ∈ ops, op.wf s.params = true ∧ op.legal s) : ∃ u, applyAll s ops = .next u := by
  induction ops generalizing s with
  | nil => exact ⟨s, rfl⟩
  | cons op ops ih =>
    obtain ⟨⟨hwf, hlegal⟩, hops⟩ := List.forall_mem_cons.mp hops
    obtain ⟨t, ht⟩ := hs.applyOp_completes hlegal
    obtain ⟨hparams, hlen, -⟩ := applyOp_keeps ht
    rw [applyAll_cons_of_next ops ht]
    refine ih (applyOp_keeps_inv hs hwf ht) fun x hx => ?_
    obtain ⟨hx, hxlegal⟩ := hops x hx
    exact ⟨hparams ▸ hx, Op.legal_of_length hlen hxlegal⟩

/-! #### One iteration (R150, R152) -/

theorem State.iteration_length (s : State) (now : Nat) (id : IdRsp) (bus : BusRsp) :
    (s.iteration now id bus).length = s.channels.length + 1 := by
  simp [State.iteration]

/-- The operands of `loop` fit those of its operations, and the channels it ticks exist. -/
theorem State.iteration_legal {s : State} {now : Nat} {id : IdRsp} {bus : BusRsp}
    (hwf : stickWf s.params now id bus = true) :
    ∀ op ∈ s.iteration now id bus, op.wf s.params = true ∧ op.legal s := by
  intro op hop
  obtain hop | hop := List.mem_append.mp hop
  · obtain ⟨k, hk, rfl⟩ := List.mem_map.mp hop
    have hnow : timeFits s.params now = true := by
      simp only [stickWf, Bool.and_eq_true] at hwf
      obtain ⟨⟨hnow, -⟩, -⟩ := hwf
      exact hnow
    refine ⟨hnow, ?_⟩
    calc (BitVec.ofNat 8 k).toNat ≤ k := by simpa using Nat.mod_le k 256
      _ < s.channels.length := List.mem_range.mp hk
  · obtain rfl := List.mem_singleton.mp hop
    exact ⟨hwf, trivial⟩

/-- Settles O50: `loop` presents the operations of the iteration, the run of the presented operations is their
application in order, and they are legal, so they complete. -/
theorem iterationCompletes : Obligations.IterationCompletes := by
  intro s now id bus hs hwf
  have hops := State.iteration_legal hwf
  obtain ⟨u, hu⟩ := hs.applyAll_completes (s.iteration now id bus) hops
  refine ⟨s.present (presented s.params (s.iteration now id bus)), u, ready_of_wf _ _ hs.wf, ?_, hu⟩
  rw [← s.iteration_length now id bus]
  exact (run_present s _ fun op hop => (hops op hop).1).trans hu

end Sys2Proof.Machine

/-! ### The interfaces (43_interfaces.md) -/

namespace Sys2Proof.Machine

open Sys2Proof

/-- Settles O47: each answer of `BusDecode` meets its half of the contract of R166; a refusal's code is a remainder
modulo 255 plus one, so it is not zero in eight bits. -/
theorem busDecodeContract : Obligations.BusDecodeContract := by
  intro p addr start count rsp
  split
  case h_1 vs hd => exact busDecode_ok p addr start count rsp vs hd
  case h_2 code hd => exact busDecode_err_ne_zero hd

end Sys2Proof.Machine

/-! ### Exceptions (60_exceptions.md)

Every legal operation completes (R189), so no step faults: an operation that is not legal is refused, and so is what
cannot be read. The row that is selected never asks for another state (30_encoding.md R95). A tick of the scheduler
reads and writes no channel (R175, R194). -/

namespace Sys2Proof.Machine

open Sys2Proof

/-- Settles O55: the channel, the slave and the block that the selected row needs exist. -/
theorem everyLegalOperationCompletes : Obligations.EveryLegalOperationCompletes := fun _ _ hs hop =>
  hs.applyOp_completes hop

/-! #### What a step runs -/

theorem decodePush_ne_keyMismatch (ch : ChField) (bs : List Bool) : decodePush ch bs ≠ .error .keyMismatch := by
  unfold decodePush
  repeat' split
  all_goals nofun

theorem decodeCtick_ne_keyMismatch (p : Params) (ch : ChField) (bs : List Bool) :
    decodeCtick p ch bs ≠ .error .keyMismatch := by
  unfold decodeCtick
  split <;> nofun

theorem decodeBus_ne_keyMismatch (bs : List Bool) : decodeBus bs ≠ .error .keyMismatch := by
  unfold decodeBus
  repeat' split
  all_goals nofun

theorem decodeStick_ne_keyMismatch (p : Params) (bs : List Bool) : decodeStick p bs ≠ .error .keyMismatch := by
  unfold decodeStick
  split
  · nofun
  split
  · nofun
  split
  · nofun
  split
  · rename_i r hbus
    rintro ⟨⟩
    exact decodeBus_ne_keyMismatch _ hbus
  · nofun

/-- Reading an operation selects no row, so it refuses nothing for its key (30_encoding.md R95, R97). -/
theorem decodeOp_ne_keyMismatch (p : Params) (bs : List Bool) : decodeOp p bs ≠ .error .keyMismatch := by
  unfold decodeOp
  split
  · nofun
  simp only
  split
  case h_2 => exact decodePush_ne_keyMismatch _ _
  case h_4 => exact decodeCtick_ne_keyMismatch p _ _
  case h_5 =>
    split
    · exact decodeStick_ne_keyMismatch p _
    · nofun
  all_goals nofun

/-- A step refuses what it cannot read, or runs a row presented by name, or applies an operation; the row and the
operation find the registers of the machine. -/
theorem step_cases (s : State) :
    (∃ r, r ≠ .keyMismatch ∧ step s = .refused r) ∨
    (∃ i q, i.toOp = none ∧ step s = exec i { s with inbox := q }) ∨
    ∃ op q, step s = applyOp { s with inbox := q } op := by
  cases hin : s.inbox with
  | nil => exact .inr (.inr ⟨.nop 0, s.inbox, step_of_inbox_nil hin⟩)
  | cons inp q =>
    cases inp with
    | rst => exact .inr (.inl ⟨.reset, _, rfl, step_of_decode_ok hin rfl⟩)
    | frame ch payload suffix => exact .inr (.inl ⟨.frame ch payload suffix, _, rfl, step_of_decode_ok hin rfl⟩)
    | loop now id bus =>
      by_cases hwf : stickWf s.params now id bus = true
      · exact .inr (.inl ⟨.loop now id bus, _, rfl, step_of_decode_ok hin (if_pos hwf)⟩)
      · exact .inl ⟨.operandRange, nofun, step_of_decode_error hin (if_neg hwf)⟩
    | bits bs =>
      cases hread : decodeOp s.params bs with
      | error r =>
        have hr : r ≠ .keyMismatch := by
          rintro rfl
          exact decodeOp_ne_keyMismatch s.params bs hread
        exact .inl ⟨r, hr, step_of_decode_error hin (by simp [decode, hread])⟩
      | ok x => exact .inr (.inr ⟨x.1, _, step_of_decodeOp hin hread⟩)

/-! #### Nothing faults under the invariant (R189) -/

/-- A row presented by name completes, or is refused for its configuration or its operands. -/
theorem exec_named_row (s : State) (i : Instr) (hop : i.toOp = none) :
    (∃ t, exec i s = .next t) ∨ ∃ r, r ≠ .keyMismatch ∧ exec i s = .refused r := by
  cases hw : configWf s.config with
  | false =>
    obtain ⟨k, hk⟩ | hres := exec_eq_ready_or_reserved i s
    · exact .inr ⟨.illFormedConfig, nofun, hk.trans (ready_of_not_wf s k hw)⟩
    · exact .inr ⟨.reservedOpcode, nofun, hres⟩
  | true =>
    cases i <;> simp only [Instr.toOp, reduceCtorEq] at hop
    case reset => exact .inl ⟨_, ready_of_wf s _ hw⟩
    case loop => exact .inl ⟨_, ready_of_wf s _ hw⟩
    case frame ch payload suffix =>
      cases hc : s.channels[ch.toNat]? with
      | none =>
        refine .inr ⟨.noSuchChannel, nofun, ?_⟩
        rw [exec_frame, execFrame, ready_of_wf s _ hw, hc]
      | some c =>
        rw [exec_frame_of_channel payload suffix hw hc]
        split
        · exact .inr ⟨.frameSuffixLength, nofun, rfl⟩
        · split
          · exact .inr ⟨.burstTooLong, nofun, rfl⟩
          · exact .inl ⟨_, rfl⟩

/-- What is not legal is reserved or addresses no channel, and is refused as such (30_encoding.md R96). -/
theorem applyOp_refused_of_not_legal {s : State} {op : Op} (h : ¬ op.legal s) :
    ∃ r, r ≠ .keyMismatch ∧ applyOp s op = .refused r := by
  cases op with
  | push | eob | ctick => exact ⟨.noSuchChannel, nofun, applyOp_noSuchChannel rfl (Nat.le_of_not_lt h)⟩
  | reserved0101 | reserved011x | reserved1xxx => exact ⟨.reservedOpcode, nofun, rfl⟩
  | nop | stick => exact absurd trivial h

/-- Legal or not, an operation meets no fault. -/
theorem State.Inv.applyOp_ne_fault {s : State} (hs : s.Inv) (op : Op) (f : Fault) : applyOp s op ≠ .fault f := by
  by_cases hop : op.legal s
  · obtain ⟨t, ht⟩ := hs.applyOp_completes hop
    simp [ht]
  · obtain ⟨r, -, hr⟩ := applyOp_refused_of_not_legal hop
    simp [hr]

/-! #### The selected row is in the state its key names (30_encoding.md R95) -/

section SelectedRow

variable {s : State}

theorem ready_ne_keyMismatch {k : Result} (h : k ≠ .refused .keyMismatch) : ready s k ≠ .refused .keyMismatch := by
  unfold ready
  split
  · exact h
  · nofun

theorem onChannel_ne_keyMismatch {ch : ChField} {st : ChState} {c : Channel} {k : Channel → Result}
    (hc : s.channels[ch.toNat]? = some c) (hst : c.state = st) (h : k c ≠ .refused .keyMismatch) :
    onChannel s ch st k ≠ .refused .keyMismatch := by
  refine ready_ne_keyMismatch ?_
  simpa only [hc, hst, if_true] using h

theorem onScheduler_ne_keyMismatch {st : PsState} {cond : Bool} {k : Result} (hst : s.ps.state = st)
    (hcond : cond = true) (h : k ≠ .refused .keyMismatch) : onScheduler s st cond k ≠ .refused .keyMismatch := by
  refine ready_ne_keyMismatch ?_
  simpa only [hst, hcond, if_true] using h

theorem withSlave_ne_keyMismatch {k : Slave → Result} (h : ∀ r, k r ≠ .refused .keyMismatch) :
    withSlave s k ≠ .refused .keyMismatch := by
  unfold withSlave
  split
  · nofun
  · exact h _

theorem withBlock_ne_keyMismatch {r : Slave} {k : Block → Result} (h : ∀ b, k b ≠ .refused .keyMismatch) :
    withBlock s r k ≠ .refused .keyMismatch := by
  unfold withBlock
  split
  · nofun
  · exact h _

variable {ch : ChField} {c : Channel}

theorem exec_pushRow_ne_keyMismatch (data : List Byte) (hc : s.channels[ch.toNat]? = some c) :
    exec (pushRow ch data c.state) s ≠ .refused .keyMismatch := by
  cases hst : c.state <;> exact onChannel_ne_keyMismatch hc hst nofun

theorem exec_eobRow_ne_keyMismatch (hc : s.channels[ch.toNat]? = some c) :
    exec (eobRow ch c.state) s ≠ .refused .keyMismatch := by
  cases hst : c.state <;> exact onChannel_ne_keyMismatch hc hst nofun

theorem exec_ctickRow_ne_keyMismatch (now : Nat) (hc : s.channels[ch.toNat]? = some c) :
    exec (ctickRow ch now c.state) s ≠ .refused .keyMismatch := by
  cases hst : c.state with
  | idle | collecting | throttled => exact onChannel_ne_keyMismatch hc hst nofun
  | delivering => exact onChannel_ne_keyMismatch hc hst (s.deliver_ne_refused _ _ _ _)
  | validating =>
    refine onChannel_ne_keyMismatch hc hst ?_
    cases c.validate with
    | undefinedWindow | bad => nofun
    | good => exact s.deliver_ne_refused _ _ _ _

variable (now : Nat) (id : IdRsp) (bus : BusRsp)

theorem exec_stickRow_idle_ne_keyMismatch (hst : s.ps.state = .idle) :
    exec (stickRow s now id bus .idle) s ≠ .refused .keyMismatch := by
  unfold stickRow
  cases hu : s.leastUndiscovered with
  | some x =>
    refine onScheduler_ne_keyMismatch hst rfl ?_
    simp [hu]
  | none =>
    refine onScheduler_ne_keyMismatch hst (by simp [hu]) ?_
    cases s.leastDue now <;> nofun

theorem exec_stickRow_awaiting_ne_keyMismatch (hst : s.ps.state = .awaitingResponse) :
    exec (stickRow s now id bus .awaitingResponse) s ≠ .refused .keyMismatch := by
  unfold stickRow
  cases hc : bus.complete with
  | true => exact onScheduler_ne_keyMismatch hst hc nofun
  | false =>
    cases hd : reached s.params now s.ps.deadline with
    | true => exact onScheduler_ne_keyMismatch hst (by simp [hc, hd]) (withSlave_ne_keyMismatch nofun)
    | false => exact onScheduler_ne_keyMismatch hst (by simp [hc, hd]) nofun

theorem exec_stickPublishing_ne_keyMismatch (hst : s.ps.state = .publishing) :
    exec (.stickPublishing now id bus) s ≠ .refused .keyMismatch := by
  refine onScheduler_ne_keyMismatch hst rfl ?_
  split
  · exact withSlave_ne_keyMismatch nofun
  · split
    · nofun
    · refine withSlave_ne_keyMismatch fun r => ?_
      split <;> nofun

theorem exec_stickRow_ne_keyMismatch : exec (stickRow s now id bus s.ps.state) s ≠ .refused .keyMismatch := by
  cases hst : s.ps.state with
  | idle => exact exec_stickRow_idle_ne_keyMismatch now id bus hst
  | prepareTransmit => exact onScheduler_ne_keyMismatch hst rfl nofun
  | transmitting =>
    refine onScheduler_ne_keyMismatch hst rfl ?_
    split
    · exact withSlave_ne_keyMismatch fun r => withBlock_ne_keyMismatch nofun
    · nofun
  | awaitingResponse => exact exec_stickRow_awaiting_ne_keyMismatch now id bus hst
  | decoding =>
    refine onScheduler_ne_keyMismatch hst rfl (withSlave_ne_keyMismatch fun r => withBlock_ne_keyMismatch fun b => ?_)
    split <;> nofun
  | advanceBlock => exact onScheduler_ne_keyMismatch hst rfl (withSlave_ne_keyMismatch nofun)
  | publishing => exact exec_stickPublishing_ne_keyMismatch now id bus hst

end SelectedRow

theorem applyOp_ne_keyMismatch (s : State) (op : Op) : applyOp s op ≠ .refused .keyMismatch := by
  by_cases hlegal : op.legal s
  · cases op with
    | nop => exact ready_ne_keyMismatch nofun
    | push ch data =>
      have hc := List.getElem?_eq_getElem hlegal
      rw [applyOp_of_row s _ _ (selectRow_push s ch data _ hc)]
      exact exec_pushRow_ne_keyMismatch data hc
    | eob ch =>
      have hc := List.getElem?_eq_getElem hlegal
      rw [applyOp_of_row s _ _ (selectRow_eob s ch _ hc)]
      exact exec_eobRow_ne_keyMismatch hc
    | ctick ch now =>
      have hc := List.getElem?_eq_getElem hlegal
      rw [applyOp_of_row s _ _ (selectRow_ctick s ch now _ hc)]
      exact exec_ctickRow_ne_keyMismatch now hc
    | stick now id bus => exact exec_stickRow_ne_keyMismatch now id bus
    | reserved0101 | reserved011x | reserved1xxx => exact hlegal.elim
  · obtain ⟨r, hne, hr⟩ := applyOp_refused_of_not_legal hlegal
    simp [hr, hne]

/-- Settles O56: what a step runs finds the registers of the machine, so it meets no fault under the invariant, and the
row of an operation is the one its unit's state selects. -/
theorem noStepFaults : Obligations.NoStepFaults := by
  refine ⟨fun s f hs => ?_, fun s => ?_⟩
  · obtain ⟨r, -, hr⟩ | ⟨i, q, hop, hi⟩ | ⟨op, q, ha⟩ := step_cases s
    · simp [hr]
    · rw [hi]
      obtain ⟨t, ht⟩ | ⟨r, -, hr⟩ := exec_named_row { s with inbox := q } i hop
      · simp [ht]
      · simp [hr]
    · rw [ha]
      exact State.Inv.applyOp_ne_fault ((s.inv_inbox q).mpr hs) op f
  · obtain ⟨r, hne, hr⟩ | ⟨i, q, hop, hi⟩ | ⟨op, q, ha⟩ := step_cases s
    · simp [hr, hne]
    · rw [hi]
      obtain ⟨t, ht⟩ | ⟨r, hne, hr⟩ := exec_named_row { s with inbox := q } i hop
      · simp [ht]
      · simp [hr, hne]
    · rw [ha]
      exact applyOp_ne_keyMismatch _ op

/-! #### A tick of the scheduler looks at no channel (R175, R194) -/

/-- The machine with other channels. -/
def State.withChannels (s : State) (cs : List Channel) : State := { s with channels := cs }

@[simp] theorem State.withChannels_params (s : State) (cs : List Channel) : (s.withChannels cs).params = s.params := rfl
@[simp] theorem State.withChannels_ps (s : State) (cs : List Channel) : (s.withChannels cs).ps = s.ps := rfl

section OtherChannels

variable {s t : State} {cs : List Channel}

theorem State.leastUndiscovered_withChannels : (s.withChannels cs).leastUndiscovered = s.leastUndiscovered := rfl

theorem State.leastDue_withChannels (now : Nat) : (s.withChannels cs).leastDue now = s.leastDue now := rfl

theorem withSlave_withChannels {k k' : Slave → Result} (h : withSlave s k = .next t)
    (hk : ∀ r, k r = .next t → k' r = .next (t.withChannels cs)) :
    withSlave (s.withChannels cs) k' = .next (t.withChannels cs) := by
  obtain ⟨r, hr, hx⟩ := (withSlave_eq_next s t k).mp h
  exact (withSlave_eq_next _ _ _).mpr ⟨r, hr, hk r hx⟩

theorem withBlock_withChannels {r : Slave} {k k' : Block → Result} (h : withBlock s r k = .next t)
    (hk : ∀ b, k b = .next t → k' b = .next (t.withChannels cs)) :
    withBlock (s.withChannels cs) r k' = .next (t.withChannels cs) := by
  obtain ⟨b, hb, hx⟩ := (withBlock_eq_next s t r k).mp h
  exact (withBlock_eq_next _ _ _ _).mpr ⟨b, hb, hk b hx⟩

/-- The rows of `STICK`, row by row: the channels are left aside, where the configuration stays well-formed. -/
theorem exec_stick_withChannels {i : Instr} {now : Nat} {id : IdRsp} {bus : BusRsp}
    (hop : i.toOp = some (.stick now id bus)) (hw : configWf (s.withChannels cs).config = true)
    (h : exec i s = .next t) : exec i (s.withChannels cs) = .next (t.withChannels cs) := by
  cases i <;> simp only [Instr.toOp, Option.some.injEq, reduceCtorEq, Op.stick.injEq] at hop
  all_goals
    obtain ⟨-, hst, hcond, hx⟩ := (onScheduler_eq_next s t _ _ _).mp h
    refine (onScheduler_eq_next _ _ _ _ _).mpr ⟨hw, hst, hcond, ?_⟩
  case stickIdleIdentity =>
    rw [State.leastUndiscovered_withChannels]
    cases hu : s.leastUndiscovered with
    | none => simp [hu] at hx
    | some x =>
      rw [hu] at hx
      cases hx
      rfl
  case stickIdleSelect now id bus =>
    rw [State.leastDue_withChannels]
    cases hd : s.leastDue now <;> rw [hd] at hx <;> cases hx <;> rfl
  case stickPrepareTransmit | stickAwaitingComplete | stickAwaitingWait =>
    cases hx
    rfl
  case stickTransmitting now id bus =>
    split at hx
    · refine (if_pos ‹_›).trans (withSlave_withChannels hx fun r hx => withBlock_withChannels hx fun b hx => ?_)
      cases hx
      rfl
    · cases hx
      exact if_neg ‹_›
  case stickAwaitingTimeout | stickAdvanceBlock =>
    refine withSlave_withChannels hx fun r hx => ?_
    cases hx
    rfl
  case stickDecoding =>
    refine withSlave_withChannels hx fun r hx => withBlock_withChannels hx fun b hx => ?_
    rw [State.withChannels_params, State.withChannels_ps]
    cases hd : busDecode s.params r.cfg.addr b.start b.count s.ps.rsp <;> rw [hd] at hx <;> cases hx <;> rfl
  case stickPublishing =>
    split at hx
    · refine (if_pos ‹_›).trans (withSlave_withChannels hx fun r hx => ?_)
      cases hx
      rfl
    · refine (if_neg ‹_›).trans ?_
      rw [State.withChannels_ps]
      cases hm : s.ps.map.least with
      | some x =>
        rw [hm] at hx
        cases hx
        rfl
      | none =>
        rw [hm] at hx
        refine withSlave_withChannels hx fun r hx => ?_
        split at hx <;> cases hx
        · exact if_pos ‹_›
        · exact if_neg ‹_›

end OtherChannels

/-- Settles O60: with the channels of the second machine the first does the same, and two machines that agree on their
configuration, the slaves and the scheduler do the same in a tick. -/
theorem schedulerIsIsolated : Obligations.SchedulerIsIsolated := by
  intro s s' t t' now id bus hp hslaves hps ht ht'
  obtain ⟨i, hrow, hx⟩ := (applyOp_eq_next s t _).mp ht
  obtain ⟨i', hrow', hx'⟩ := (applyOp_eq_next s' t' _).mp ht'
  obtain rfl : i = i' :=
    Except.ok.inj (hrow.symm.trans ((selectRow_stick_congr now id bus hp hslaves hps).trans hrow'))
  have hop := selectRow_toOp s _ i hrow
  have hcfg : s'.config = (s.withChannels s'.channels).config := by
    simp [State.config, State.withChannels, hp, hslaves]
  obtain ⟨hw, -⟩ := exec_stick_cases s' t' i now id bus hop hx'
  rw [hcfg] at hw
  obtain ⟨u, hu, hslaves', hps', hout⟩ :=
    exec_stick_sameTick i now id bus hop hcfg hslaves hps _ (exec_stick_withChannels hop hw hx)
  obtain rfl : u = t' := by simpa [hu] using hx'
  exact ⟨hslaves', hps', hout⟩

end Sys2Proof.Machine

/-! ### Reset and hazards (70_reset_and_hazards.md)

What reset leaves in each register that has a reset value, at any configuration (R205); an unanswered identity query
only emits, so the next tick finds the machine as this one did (R211). -/

namespace Sys2Proof.Machine

open Sys2Proof

/-! #### Reset (R205, R206) -/

theorem State.atReset_channel {k : Nat} {g : Config} {c : Channel} (h : c ∈ (State.atReset k g).channels) :
    c.state = .idle ∧ c.cursor = 0 ∧ c.buf = [] := by
  obtain ⟨x, -, rfl⟩ := List.mem_map.mp h
  exact ⟨rfl, rfl, rfl⟩

theorem State.atReset_slave {k : Nat} {g : Config} {r : Slave} (h : r ∈ (State.atReset k g).slaves) :
    r.lastPoll = 0 ∧ r.idValid = false ∧ r.idFresh = false ∧ r.succCnt = 0 ∧ r.errCnt = 0 ∧ r.lastErr = 0x00 := by
  obtain ⟨x, -, rfl⟩ := List.mem_map.mp h
  exact ⟨rfl, rfl, rfl, rfl, rfl, rfl⟩

theorem exec_reset {s : State} (hw : configWf s.config = true) : exec .reset s = .next s.applyReset :=
  ready_of_wf s _ hw

/-- Settles O48: the records and the scheduler are those of `State.atReset` at the configuration held; an address
listed nowhere holds no value. -/
theorem resetSetsEveryRegister : Obligations.ResetSetsEveryRegister := by
  intro s hw
  refine ⟨s.applyReset, exec_reset hw, s.applyReset_config, rfl, rfl, fun c hc => ?_, fun r hr => ?_,
    rfl, rfl, rfl, fun _ => rfl, rfl, rfl, rfl⟩
  · obtain ⟨hstate, hcursor, hbuf⟩ := State.atReset_channel hc
    exact ⟨hstate, hcursor, fun _ => by rw [hbuf]; rfl⟩
  · exact State.atReset_slave hr

/-- Settles O54: the configuration is the one given to `State.atReset`, which writes every other register. -/
theorem resetStateHoldsTheStatedValues : Obligations.ResetStateHoldsTheStatedValues :=
  ⟨State.atReset_config 0 Config.atReset, rfl, rfl, rfl, rfl, rfl, rfl, rfl, rfl, rfl, rfl, rfl⟩

/-! #### Identity starvation (R211) -/

theorem State.emit_nil (s : State) : s.emit [] = s := by simp [State.emit]

theorem State.emit_emit (s : State) (es fs : List Event) : (s.emit es).emit fs = s.emit (es ++ fs) := by
  simp [State.emit]

theorem stickRow_idle_identity {s : State} {u : Nat} {r : Slave} (now : Nat) (id : IdRsp) (bus : BusRsp)
    (hu : s.leastUndiscovered = some (u, r)) : stickRow s now id bus .idle = .stickIdleIdentity now id bus := by
  simp [stickRow, hu]

/-- A query that is not answered writes no register (R127). -/
theorem applyOp_stick_unanswered {s : State} {u : Nat} {r : Slave} {now : Nat} {id : IdRsp} {bus : BusRsp}
    (hw : configWf s.config = true) (hst : s.ps.state = .idle) (hu : s.leastUndiscovered = some (u, r))
    (hid : id.valid = false) :
    applyOp s (.stick now id bus) = .next (s.emit [.requestIdentity r.cfg.addr]) := by
  obtain ⟨hr, -, -⟩ := (s.leastUndiscovered_eq_some u r).mp hu
  have hrow : selectRow s (.stick now id bus) = .ok (.stickIdleIdentity now id bus) := by
    rw [selectRow_stick, hst, stickRow_idle_identity now id bus hu]
  have hkept : s.setSlave u (r.answer id) = s := by simp [State.setSlave, set_answer id hr, hid]
  refine (applyOp_eq_next s _ _).mpr ⟨_, hrow, ?_⟩
  rw [exec_stickIdleIdentity hw hst hu, hkept]

/-- Events are no register, so after an unanswered query the scan finds the same slave again. -/
theorem applyAll_unanswered {u : Nat} {r : Slave} (ticks : List Op)
    (hticks : ∀ op ∈ ticks, ∃ n i b, op = .stick n i b ∧ i.valid = false) (s : State)
    (hw : configWf s.config = true) (hst : s.ps.state = .idle) (hu : s.leastUndiscovered = some (u, r)) :
    applyAll s ticks = .next (s.emit (List.replicate ticks.length (.requestIdentity r.cfg.addr))) := by
  induction ticks generalizing s with
  | nil => exact congrArg _ s.emit_nil.symm
  | cons op ops ih =>
    obtain ⟨⟨now, id, bus, rfl, hid⟩, hops⟩ := List.forall_mem_cons.mp hticks
    have hrest := ih hops (s.emit [.requestIdentity r.cfg.addr]) hw hst hu
    rw [State.emit_emit] at hrest
    exact (applyAll_cons_of_next ops (applyOp_stick_unanswered hw hst hu hid)).trans hrest

/-- Settles O46: the slave described is the one the scan finds, tick after tick. -/
theorem identityStarvation : Obligations.IdentityStarvation := by
  intro s u r ticks hw hst hr hen hid hbelow hticks
  have hu : s.leastUndiscovered = some (u, r) := (s.leastUndiscovered_eq_some u r).mpr
    ⟨hr, r.undiscovered_eq_true.mpr ⟨hen, hid⟩, fun j hj x hx => x.undiscovered_eq_false.mpr (hbelow j hj x hx)⟩
  exact applyAll_unanswered ticks hticks s hw hst hu

end Sys2Proof.Machine
